-- ==== Sys2Proof/Word.lean ====
section
/-! DEFINITION. The words of the block: bytes, line numbers, row indices, small counters and addresses, and the
width of a counter that must hold a given last value. -/

namespace Sys2Proof

/-- A framebuffer byte and the shift register `sr` (R20, R40). -/
abbrev Byte := BitVec 8

/-- The line counter: 9 bits, `line[8]` the most significant (R13, R61). -/
abbrev LineNum := BitVec 9

/-- The latched source row index: 6 bits (R18). -/
abbrev RowIdx := BitVec 6

/-- The byte index and the bit counter: 4 bits each (R19, R21). -/
abbrev Count := BitVec 4

/-- A framebuffer address: 9 bits (R42). -/
abbrev FbAddr := BitVec 9

/-- The control word `cw[7:0]` of one cycle (R62). -/
abbrev ControlWord := BitVec 8

/-- The smallest `n` with `2^n` above `last`: the width of a counter whose largest value is `last`. It gives `HW` from
`LINE_WIDTH - 1` and `DW` from `BIT_DIV - 1` (R10, R12, R22). -/
def counterWidth (last : Nat) : Nat := if last = 0 then 0 else Nat.log2 last + 1

end Sys2Proof
end

