-- ==== Sys2Proof/Syntax.lean ====
section
/-! DEFINITION. The seventeen operations of the block (R60), one constructor per row of `spec/opcode_table.json`. No
operation has operand fields: what an operation works on is named by its rule and read from the state or from the
input ports (R67: "The block has no immediates"). -/

namespace Sys2Proof

/-- The operations of the block: named updates of registers, each with a firing condition (R60). -/
inductive Instr where
  /-- Every register to its reset value (R170). -/
  | reset
  /-- A cycle inside a line (R121). -/
  | hcount
  /-- The last cycle of a line (R122). -/
  | tick
  /-- The trigger taken (R101). -/
  | start
  /-- The trigger not taken (R102). -/
  | trigdrop
  /-- The next byte handed to the shifter (R103). -/
  | load
  /-- The sequencer blocked on the shifter (R104). -/
  | wait
  /-- The end of a bit period (R105). -/
  | shift
  /-- A bit period that is not yet over (R106). -/
  | bithold
  /-- One byte written by the application (R140). -/
  | fbwrite
  /-- Entry of PreActive (R82). -/
  | lwake
  /-- Entry of ActivePicture (R83). -/
  | larm
  /-- Entry of PostActive (R84). -/
  | ldisarm
  /-- Entry of VSyncPulse (R85). -/
  | lvsync
  /-- Entry of PostSync (R86). -/
  | lhsync
  /-- The frame boundary and entry of LowPowerWait (R87). -/
  | lwrap
  /-- A tick inside a phase (R81). -/
  | lstep
  deriving DecidableEq, Repr

end Sys2Proof
end

