-- ==== Sys2Proof/WellFormed.lean ====
section
/-! DEFINITION. Which sets of operations the selection of R63 and R64 can give in one cycle. A single operation has no
fields and is always well formed; what can be ill formed is a set of operations said to fire together. Each check is a
definition of its own. -/

namespace Sys2Proof.WellFormed

/-- How many of the listed operations are in the set. -/
def countOf (group ops : List Instr) : Nat := (group.filter fun i => ops.contains i).length

/-- The operations of format L (R64). -/
def lineGroup : List Instr := [.lwake, .larm, .ldisarm, .lvsync, .lhsync, .lwrap, .lstep]

/-- "{RESET, HCOUNT, TICK} exactly one" (R63). -/
def oneTimer (ops : List Instr) : Bool := countOf [.reset, .hcount, .tick] ops == 1

/-- "{START, TRIGDROP} at most one" (R63). -/
def oneTrigger (ops : List Instr) : Bool := decide (countOf [.start, .trigdrop] ops ≤ 1)

/-- "{LOAD, WAIT} at most one" (R63). -/
def oneSequencer (ops : List Instr) : Bool := decide (countOf [.load, .wait] ops ≤ 1)

/-- "{SHIFT, BITHOLD} at most one" (R63). -/
def oneShifter (ops : List Instr) : Bool := decide (countOf [.shift, .bithold] ops ≤ 1)

/-- START needs an idle sequencer, LOAD and WAIT a busy one (R63: "START and LOAD never fire together"). -/
def startNeedsIdle (ops : List Instr) : Bool := !ops.contains .start || countOf [.load, .wait] ops == 0

/-- TRIGDROP needs a busy sequencer, which always fires LOAD or WAIT (R63). -/
def dropNeedsBusy (ops : List Instr) : Bool := !ops.contains .trigdrop || countOf [.load, .wait] ops == 1

/-- "When RESET fires, no other operation of the block fires" (R63). -/
def resetAlone (ops : List Instr) : Bool :=
  !ops.contains .reset || countOf [.start, .trigdrop, .load, .wait, .shift, .bithold] ops == 0

/-- Exactly one operation of format L fires with TICK, and none without it (R64). -/
def oneLineOp (ops : List Instr) : Bool := countOf lineGroup ops == (if ops.contains .tick then 1 else 0)

end Sys2Proof.WellFormed

namespace Sys2Proof

/-- A set of operations that one control word and one `lnext` can select (R63, R64). -/
def wellFormed (ops : List Instr) : Bool :=
  WellFormed.oneTimer ops && WellFormed.oneTrigger ops && WellFormed.oneSequencer ops && WellFormed.oneShifter ops
    && WellFormed.startNeedsIdle ops && WellFormed.dropNeedsBusy ops && WellFormed.resetAlone ops
    && WellFormed.oneLineOp ops

end Sys2Proof
end

