-- ==== Sys2Proof/Decode.lean ====
section
/-! DEFINITION. The selection of operations, the block's counterpart of decoding (R62 to R64), and its encoder. A control
word and the number `lnext` select a SET of operations, which fire together in one cycle; the set is given as a list in
the order of write priority of R30 (RESET first, LOAD before SHIFT). Every control word and every `lnext` selects (R70). -/

namespace Sys2Proof

/-- The two formats (R60): C is selected by the control word, L by `lnext` in a cycle in which TICK fires. -/
inductive Format where
  | C
  | L
  deriving DecidableEq, Repr

/-- A row of the selection tables: the operation fires when `(word and mask) == pat` (R63, R64). -/
structure Row where
  format : Format
  mask : Nat
  pat : Nat
  deriving DecidableEq, Repr

/-- The selection tables of R63 and R64, written as the spec prints them (mask, then match). -/
def encodingRow : Instr → Row
  | .reset    => ⟨.C, 0x80, 0x80⟩
  | .hcount   => ⟨.C, 0xC0, 0x00⟩
  | .tick     => ⟨.C, 0xC0, 0x40⟩
  | .start    => ⟨.C, 0xB0, 0x20⟩
  | .trigdrop => ⟨.C, 0xB0, 0x30⟩
  | .load     => ⟨.C, 0x98, 0x18⟩
  | .wait     => ⟨.C, 0x98, 0x10⟩
  | .shift    => ⟨.C, 0x86, 0x06⟩
  | .bithold  => ⟨.C, 0x86, 0x04⟩
  | .fbwrite  => ⟨.C, 0x01, 0x01⟩
  | .lwake    => ⟨.L, 0x1FF, 0x019⟩
  | .larm     => ⟨.L, 0x1FF, 0x01D⟩
  | .ldisarm  => ⟨.L, 0x1FF, 0x0DD⟩
  | .lvsync   => ⟨.L, 0x1FF, 0x0F7⟩
  | .lhsync   => ⟨.L, 0x1FF, 0x0F9⟩
  | .lwrap    => ⟨.L, 0x1FF, 0x105⟩
  | .lstep    => ⟨.L, 0x000, 0x000⟩

/-- `(cw and mask) == match` for an operation of format C (R63). -/
def matchesControl (cw : ControlWord) (i : Instr) : Bool :=
  cw &&& BitVec.ofNat 8 (encodingRow i).mask == BitVec.ofNat 8 (encodingRow i).pat

/-- The operations of format C in the order of write priority (R30, R111): of two that write one register in one cycle
the earlier wins. -/
def controlOps : List Instr :=
  [.reset, .start, .trigdrop, .load, .wait, .shift, .bithold, .fbwrite, .tick, .hcount]

/-- The operations of format C a control word selects (R63). -/
def decodeControl (cw : ControlWord) : List Instr := controlOps.filter (matchesControl cw)

/-- The one operation of format L that `lnext` selects (R64): equality for the first six, LSTEP by default. -/
def decodeLine (lnext : Nat) : Instr :=
  if lnext = 25 then .lwake
  else if lnext = 29 then .larm
  else if lnext = 221 then .ldisarm
  else if lnext = 247 then .lvsync
  else if lnext = 249 then .lhsync
  else if lnext = 261 then .lwrap
  else .lstep

/-- All operations that fire in a cycle with this control word and this `lnext` (R63, R64). -/
def decode (cw : ControlWord) (lnext : Nat) : List Instr :=
  decodeControl cw ++ (if matchesControl cw .tick then [decodeLine lnext] else [])

/-- The control word with the given bits, `cw[7]` first (R62). -/
def controlBits (rst tick trig seqBusy ready shifting bitEnd fbWe : Bool) : ControlWord :=
  BitVec.ofNat 8 (128 * rst.toNat + 64 * tick.toNat + 32 * trig.toNat + 16 * seqBusy.toNat + 8 * ready.toNat
    + 4 * shifting.toNat + 2 * bitEnd.toNat + fbWe.toNat)

/-- The control word of a set of operations: a bit is 1 exactly where the pattern column of R63 prints a 1 for one of
them. -/
def encodeControl (ops : List Instr) : ControlWord :=
  controlBits (ops.contains .reset) (ops.contains .tick) (ops.contains .start || ops.contains .trigdrop)
    (ops.contains .trigdrop || ops.contains .load || ops.contains .wait) (ops.contains .load)
    (ops.contains .shift || ops.contains .bithold) (ops.contains .shift) (ops.contains .fbwrite)

/-- A number `lnext` that selects the operation of format L of a set (R64); 1 for LSTEP, whose numbers are all those
not listed (log entry 12). -/
def encodeLine (ops : List Instr) : Nat :=
  if ops.contains .lwake then 25
  else if ops.contains .larm then 29
  else if ops.contains .ldisarm then 221
  else if ops.contains .lvsync then 247
  else if ops.contains .lhsync then 249
  else if ops.contains .lwrap then 261
  else 1

/-- The words of a well-formed set of operations: its control word and its `lnext`. -/
def encode (ops : List Instr) : ControlWord × Nat := (encodeControl ops, encodeLine ops)

/-- How many bits `spec/opcode_table.json` gives a row, in whole bytes: 8 for format C, 9 and so 16 for format L. -/
def Format.tableBits : Format → Nat
  | .C => 8
  | .L => 16

/-- The operation the decoder NAMES for a table word: the first, in the order of write priority, of the set that the word
selects (log entry 12). A word of 8 bits is a control word, a word of 9 bits (16 in whole bytes) is an `lnext`. -/
def decodeTableWord (nbits w : Nat) : Option Instr :=
  if nbits = 8 then (if w < 256 then (decodeControl (BitVec.ofNat 8 w)).head? else none)
  else if nbits = 9 ∨ nbits = 16 then (if w < 512 then some (decodeLine w) else none)
  else none

end Sys2Proof
end

