-- ==== Sys2Proof/Config.lean ====
section
/-! DEFINITION. The fixed constants of R5, the five open parameters of R6 with their legality K1 to K4 (R7), and the
free values: constants without a body, of which no proof can know a value. -/

namespace Sys2Proof.Config

/-- Lines per frame (R5). -/
def totalLines : Nat := 261
/-- First line of phase PreActive (R5). -/
def preActiveStart : Nat := 25
/-- First line of phase ActivePicture (R5). -/
def activeStart : Nat := 29
/-- Last line of phase ActivePicture (R5). -/
def activeLast : Nat := 220
/-- First line of phase PostActive (R5). -/
def postActiveStart : Nat := 221
/-- First line of phase VSyncPulse (R5). -/
def vsyncStart : Nat := 247
/-- First line of phase PostSync (R5). -/
def postSyncStart : Nat := 249
/-- Last line of the frame (R5). -/
def lastLine : Nat := 260
/-- Scan lines painted from one stored row (R5). -/
def linesPerRow : Nat := 4
/-- Framebuffer height in rows (R5). -/
def fbRows : Nat := 48
/-- Framebuffer width in pixels (R5). -/
def fbCols : Nat := 64
/-- Bytes per stored row (R5). -/
def rowBytes : Nat := 8
/-- Bytes of the framebuffer (R5). -/
def fbBytes : Nat := 384

end Sys2Proof.Config

namespace Sys2Proof

/-- The five open parameters (R6). `LINE_WIDTH` and `BIT_DIV` are held as the values the rules compare with,
`LINE_WIDTH - 1` and `BIT_DIV - 1`, so that the zero widths, "refused outright" by U7, cannot be written down
(log entries 2 and 18). -/
structure Params where
  /-- `LINE_WIDTH - 1`: the last value of `hcnt` (R12). -/
  lineLast : Nat
  /-- `HSYNC_WIDTH`: cycles of the normal sync pulse. -/
  hsyncWidth : Nat
  /-- `VSYNC_WIDTH`: cycles of the extended sync pulse. -/
  vsyncWidth : Nat
  /-- `PICTURE_DELAY`: the value of `hcnt` at which the sub-line trigger fires. -/
  pictureDelay : Nat
  /-- `BIT_DIV - 1`: the last value of `bdiv` (R22). -/
  bitLast : Nat
  deriving DecidableEq, Repr, Inhabited

/-- `LINE_WIDTH`: clock cycles in one line (R6). -/
def Params.lineWidth (p : Params) : Nat := p.lineLast + 1

/-- `BIT_DIV`: clock cycles per pixel bit (R6). -/
def Params.bitDiv (p : Params) : Nat := p.bitLast + 1

/-- A configuration written with the spec's five numbers, in the order of `95_test_vectors.md`:
(LINE_WIDTH, HSYNC_WIDTH, VSYNC_WIDTH, PICTURE_DELAY, BIT_DIV). A LINE_WIDTH or BIT_DIV of 0 is no configuration: it cannot
be written, because the two numbers come with the proof that they are not 0. That the refusal of U7 ("refused outright") is
made so, before there is a machine and not by a stop of its own, is the model's choice (log entry 18). -/
def Params.ofWidths (lineWidth hsync vsync delay bitDiv : Nat) (_hline : 0 < lineWidth := by decide)
    (_hbit : 0 < bitDiv := by decide) : Params :=
  ⟨lineWidth - 1, hsync, vsync, delay, bitDiv - 1⟩

/-- `HW`, the width of `hcnt` (R10, R12). -/
def Params.hcntWidth (p : Params) : Nat := counterWidth p.lineLast

/-- `DW`, the width of `bdiv` (R10, R22). -/
def Params.bdivWidth (p : Params) : Nat := counterWidth p.bitLast

/-- A legal configuration: K1, K2 and K3 of R7 (K4, `BIT_DIV >= 1`, holds of every `Params`). -/
structure Params.Legal (p : Params) : Prop where
  /-- K1, first part. -/
  hsync_pos : 1 ≤ p.hsyncWidth
  /-- K1, second part. -/
  hsync_lt_vsync : p.hsyncWidth < p.vsyncWidth
  /-- K1, third part. -/
  vsync_le_line : p.vsyncWidth ≤ p.lineWidth
  /-- K2. -/
  hsync_le_delay : p.hsyncWidth ≤ p.pictureDelay
  /-- K3, the line budget. -/
  budget : p.pictureDelay + 2 + 64 * p.bitDiv ≤ p.lineWidth

/-- The small legal configuration `T80` (R7, not normative). -/
def Params.t80 : Params := .ofWidths 80 4 70 10 1

/-- The configuration `T76`: K3 with equality (`95_test_vectors.md`). -/
def Params.t76 : Params := .ofWidths 76 4 70 10 1

/-- The configuration `T160`: two cycles per pixel (`95_test_vectors.md`). -/
def Params.t160 : Params := .ofWidths 160 4 140 10 2

/-- The illegal configuration `X40`: K3 broken (`95_test_vectors.md`). -/
def Params.x40 : Params := .ofWidths 40 4 30 10 1

/-- The NTSC-like illustration `N16` (R7, not normative). -/
def Params.n16 : Params := .ofWidths 1016 75 941 340 8

end Sys2Proof

namespace Sys2Proof.Config

/-- The configuration the block was built with: OPEN (R6, D5), a free value (log entry 2). -/
opaque params : Params

/-- The content of a framebuffer byte between power-up and its first write: unspecified, one fixed value per
address (R58, U1), a free value (log entry 4). -/
opaque powerUp : Nat → Byte

/-- The line number LSTEP leaves from 511: "9-bit wrap from 511 to 0 is not specified" (R69, U5), a free value
(log entry 6). -/
opaque lineAfter511 : LineNum

/-- The byte index LOAD leaves from 15: "outside the spec" (R69, U5), a free value (log entry 7). -/
opaque bidxAfter15 : Count

/-- The bit count SHIFT leaves from 0, where it never fires (R105), a free value (log entry 8). -/
opaque bcntBefore0 : Count

/-- The value BITHOLD leaves when `bdiv + 1` does not fit `bdiv`'s width (U5), a free value (log entry 9). -/
opaque bdivPastWidth : Params → Nat

/-- The `phase` port for a line number above 260, where the phase is undefined (R24, R69), a free value
(log entry 10). -/
opaque phaseOfReserved : LineNum → BitVec 3

end Sys2Proof.Config
end

