-- ==== Sys2Proof/Machine/State.lean ====
section
/-! DEFINITION. The state of the block: the ten registers of R10 and the framebuffer of R40, with the configuration the
block was built with and the inputs still to come; the stop reasons; the state after reset. -/

namespace Sys2Proof.Machine

/-- What the application presents on the input ports in one cycle (R11, R46, R72). -/
structure Input where
  /-- `rst`, the synchronous reset, active high (R170). -/
  rst : Bool
  /-- `fb_we`, the write enable of the framebuffer (R46). -/
  fbWe : Bool
  /-- `fb_waddr`, the write address (R46). -/
  fbWaddr : FbAddr
  /-- `fb_wdata`, the byte written (R46). -/
  fbWdata : Byte
  deriving DecidableEq, Repr

/-- A cycle in which the application does nothing: the input word 0x00000 of `CLK` (R72). -/
def Input.idle : Input := ⟨false, false, 0, 0⟩

/-- The state of the block and of what it reads (R10, R40). -/
@[ext]
structure State where
  /-- The configuration (R6). The model's own field: static, written by no operation (R178, log entry 2). -/
  params : Params
  /-- `hcnt`, the position within the line in cycles; a register of `HW` bits, so below `2^HW` (R12, log entry 5). -/
  hcnt : Nat
  /-- `line`, the line counter (R13). -/
  line : LineNum
  /-- `trig_en`, the arm flag of the sub-line trigger (R15). -/
  trigEn : Bool
  /-- `sync_wide`, the sync pulse width select (R16). -/
  syncWide : Bool
  /-- `lpm_req`, the low-power request (R17). -/
  lpmReq : Bool
  /-- `row`, the latched source row index (R18). -/
  row : RowIdx
  /-- `bidx`, the byte index of the sequencer; 8 is idle (R19). -/
  bidx : Count
  /-- `sr`, the shift register; bit 7 is the bit on the pin (R20). -/
  sr : Byte
  /-- `bcnt`, the bits of `sr` still to be shown; 0 is empty (R21). -/
  bcnt : Count
  /-- `bdiv`, the cycles already spent on the current bit; a register of `DW` bits, so below `2^DW` (R22, log entry 5). -/
  bdiv : Nat
  /-- The framebuffer (R40): its written bytes, in the canonical form of `Memory.wf` (log entry 4). -/
  fb : List Host.Cell
  /-- What the application will present, this cycle's input first; idle once the list is used up (log entry 3). The
  model's own field: the spec's inputs are ports. -/
  inputs : List Input
  deriving DecidableEq, Repr

/-- Why the machine stops. There is no constructor: "The block raises no synchronous exception" and "Every operation of
the block is total" (R150), so no step faults. -/
inductive Fault where
  deriving DecidableEq, Repr

/-- What the model gives no meaning to. Every operation has its meaning, so no step refuses. -/
inductive Refusal where
  /-- An operation without a meaning yet, by its mnemonic. Raised by no arm of `exec`; safe. -/
  | notModelled (mnemonic : String)
  deriving DecidableEq, Repr

/-- The state in the first cycle after RESET (R170, R171) of a block with this configuration, this framebuffer content
(which RESET leaves alone, R58) and these inputs to come. -/
def State.afterReset (p : Params) (fb : List Host.Cell) (inputs : List Input) : State where
  params := p
  hcnt := 0
  line := 0
  trigEn := false
  syncWide := false
  lpmReq := false
  row := 0
  bidx := 8
  sr := 0
  bcnt := 0
  bdiv := 0
  fb := fb
  inputs := inputs

/-- The machine right after reset (R171): every register at its reset value, no framebuffer byte written since power-up,
the configuration open, and an application that does nothing (log entries 2, 3, 4, 14). -/
def State.reset : State := .afterReset Config.params [] []

end Sys2Proof.Machine
end

