-- ==== Sys2Proof/Machine/Ops.lean ====
section
/-! DEFINITION. The named operations over the framebuffer and the registers: the two ports of the framebuffer, one update
per register group, the small counters with their unstated ends, the tick function of R91, and R10's "written by" column.
The block takes no exception and has no return from one (R150, R156), so neither has an operation here. -/

namespace Sys2Proof.Machine

/-- The byte the framebuffer holds at `a`: as last written, else as at power-up (R58, U1). -/
def Memory.byteAt : List Host.Cell → Nat → Byte
  | [], a => Config.powerUp a
  | (b, v) :: m, a => if a = b then v else Memory.byteAt m a

/-- Entering a byte into the list in canonical form: the list stays sorted, and a byte equal to what an unlisted address
reads as is not listed. -/
def Memory.put : List Host.Cell → Nat → Byte → List Host.Cell
  | [], a, v => if v = Config.powerUp a then [] else [(a, v)]
  | (b, w) :: m, a, v =>
    if a < b then (if v = Config.powerUp a then (b, w) :: m else (a, v) :: (b, w) :: m)
    else if a = b then (if v = Config.powerUp a then m else (a, v) :: m)
    else (b, w) :: Memory.put m a v

/-- Every listed address is at least `lo`, below 384, and below the addresses after it, and no listed byte equals what
its address reads as unlisted. -/
def Memory.wfFrom : Nat → List Host.Cell → Bool
  | _, [] => true
  | lo, (a, v) :: m => decide (lo ≤ a) && decide (a < Config.fbBytes) && decide (v ≠ Config.powerUp a)
      && Memory.wfFrom (a + 1) m

/-- The canonical form of the framebuffer's list. -/
def Memory.wf (m : List Host.Cell) : Bool := Memory.wfFrom 0 m

/-- `MemRead(addr, 1)`, the read port: the byte at `addr` at the beginning of the cycle; 0x00 from 384 on (R44, R45). -/
def Memory.read (m : List Host.Cell) (addr : FbAddr) : Byte :=
  if addr.toNat < Config.fbBytes then Memory.byteAt m addr.toNat else 0

/-- `MemWrite(addr, 1, v)`, the write port: one byte; nothing from address 384 on (R46, R47). -/
def Memory.write (m : List Host.Cell) (addr : FbAddr) (v : Byte) : List Host.Cell :=
  if addr.toNat < Config.fbBytes then Memory.put m addr.toNat v else m

/-- What the application presents in this cycle (R11, R46); idle when nothing more is given (log entry 3). -/
def State.input (s : State) : Input := s.inputs.headD Input.idle

/-- The cycle is over: its input is used up. -/
def State.endCycle (s : State) : State := { s with inputs := s.inputs.tail }

/-- The horizontal counter (R12). -/
def State.setHcnt (s : State) (n : Nat) : State := { s with hcnt := n }

/-- The line counter (R13). -/
def State.setLine (s : State) (l : LineNum) : State := { s with line := l }

/-- The arm flag (R15). -/
def State.setTrigEn (s : State) (b : Bool) : State := { s with trigEn := b }

/-- The sync width select (R16). -/
def State.setSyncWide (s : State) (b : Bool) : State := { s with syncWide := b }

/-- The low-power request (R17). -/
def State.setLpmReq (s : State) (b : Bool) : State := { s with lpmReq := b }

/-- The row latch (R18). -/
def State.setRow (s : State) (r : RowIdx) : State := { s with row := r }

/-- The byte index (R19). -/
def State.setBidx (s : State) (b : Count) : State := { s with bidx := b }

/-- The three registers of the shifter (R20 to R22). -/
def State.setShifter (s : State) (sr : Byte) (bcnt : Count) (bdiv : Nat) : State :=
  { s with sr := sr, bcnt := bcnt, bdiv := bdiv }

/-- The bit period counter alone (R22). -/
def State.setBdiv (s : State) (n : Nat) : State := { s with bdiv := n }

/-- The framebuffer (R40). -/
def State.setFb (s : State) (m : List Host.Cell) : State := { s with fb := m }

/-- `hcnt + 1` in a register of `HW` bits (R121); past every value the spec claims anything of, it wraps at `2^HW` as
R69 says (log entry 5). -/
def hcntNext (p : Params) (n : Nat) : Nat := (n + 1) % 2 ^ p.hcntWidth

/-- `line + 1` (R81); a free value from 511 on, where R69 leaves it open (log entry 6). -/
def lineNext (l : LineNum) : LineNum := if l = 511 then Config.lineAfter511 else l + 1

/-- `bidx + 1` (R103); a free value from 15, which no 4-bit sum states (R69, log entry 7). -/
def bidxNext (b : Count) : Count := if b = 15 then Config.bidxAfter15 else b + 1

/-- `bcnt - 1` (R105); a free value from 0, where SHIFT does not fire (log entry 8). -/
def bcntPrev (b : Count) : Count := if b = 0 then Config.bcntBefore0 else b - 1

/-- `bdiv + 1` in a register of `DW` bits (R106); a free value of that width where the sum does not fit
(U5, log entry 9). -/
def bdivNext (p : Params) (n : Nat) : Nat :=
  if n + 1 < 2 ^ p.bdivWidth then n + 1 else Config.bdivPastWidth p % 2 ^ p.bdivWidth

/-- The four registers of the timing state machine (R91). -/
structure TsmRegs where
  line : LineNum
  trigEn : Bool
  syncWide : Bool
  lpmReq : Bool
  deriving DecidableEq, Repr

/-- `tsm_tick` of R91: what one tick does to the four registers of the timing state machine. -/
def tsmTick (r : TsmRegs) : TsmRegs :=
  let lnext := r.line.toNat + 1
  if lnext = 261 then { r with line := 0, lpmReq := true }
  else if lnext = 25 then { r with line := 25, lpmReq := false }
  else if lnext = 29 then { r with line := 29, trigEn := true }
  else if lnext = 221 then { r with line := 221, trigEn := false }
  else if lnext = 247 then { r with line := 247, syncWide := true }
  else if lnext = 249 then { r with line := 249, syncWide := false }
  else { r with line := lineNext r.line }

/-- The timing state machine's part of a state. -/
def State.tsm (s : State) : TsmRegs := ⟨s.line, s.trigEn, s.syncWide, s.lpmReq⟩

/-- A state with the timing state machine's registers replaced. -/
def State.setTsm (s : State) (r : TsmRegs) : State :=
  (((s.setLine r.line).setTrigEn r.trigEn).setSyncWide r.syncWide).setLpmReq r.lpmReq

/-- `TICKS n` of the stimulus notation: `n` ticks at event level (R73). -/
def tsmTicks : Nat → TsmRegs → TsmRegs
  | 0, r => r
  | n + 1, r => tsmTicks n (tsmTick r)

/-- R10's "written by" column, read by operation: `acc` with the registers that `i` writes taken from `t`. -/
def commit (i : Instr) (t acc : State) : State :=
  match i with
  | .reset =>
    ((((acc.setHcnt t.hcnt).setTsm t.tsm).setRow t.row).setBidx t.bidx).setShifter t.sr t.bcnt t.bdiv
  | .hcount => acc.setHcnt t.hcnt
  | .tick => acc.setHcnt t.hcnt
  | .start => (acc.setRow t.row).setBidx t.bidx
  | .trigdrop => acc
  | .load => (acc.setBidx t.bidx).setShifter t.sr t.bcnt t.bdiv
  | .wait => acc
  | .shift => acc.setShifter t.sr t.bcnt t.bdiv
  | .bithold => acc.setBdiv t.bdiv
  | .fbwrite => acc.setFb t.fb
  | .lwake => (acc.setLine t.line).setLpmReq t.lpmReq
  | .larm => (acc.setLine t.line).setTrigEn t.trigEn
  | .ldisarm => (acc.setLine t.line).setTrigEn t.trigEn
  | .lvsync => (acc.setLine t.line).setSyncWide t.syncWide
  | .lhsync => (acc.setLine t.line).setSyncWide t.syncWide
  | .lwrap => (acc.setLine t.line).setLpmReq t.lpmReq
  | .lstep => acc.setLine t.line

/-- The next values of all registers, put together from what each firing operation gives (R30): the operations stand in
the order of write priority, so the first of two that write a register is committed last. -/
def commitAll (s : State) (results : List (Instr × State)) : State :=
  results.foldr (fun r acc => commit r.1 r.2 acc) s

end Sys2Proof.Machine
end

