-- ==== Sys2Proof/Machine/Operands.lean ====
section
/-! DEFINITION. Every operand form of the block: the row index and the framebuffer address of R67, and the compared sum
`lnext` of R64. -/

namespace Sys2Proof.Machine

/-- `d = (line - 29) mod 512`, 9 bits (R67). -/
def lineOffset (l : LineNum) : BitVec 9 := l - 29

/-- `row = d[7:2]`, 6 bits: `(line - 29) / 4` on the active lines (R67, R101). -/
def rowIndex (l : LineNum) : RowIdx := (lineOffset l).extractLsb' 2 6

/-- `fb_raddr` with the row and the byte index as given: the concatenation of `row[5:0]` and `bidx[2:0]` (R25, R67). -/
def fbAddress (row : RowIdx) (bidx : Count) : FbAddr := row ++ bidx.extractLsb' 0 3

/-- `fb_raddr`, the framebuffer read address, driven in every cycle (R25). -/
def State.fbRaddr (s : State) : FbAddr := fbAddress s.row s.bidx

/-- `fb_rdata`, what the framebuffer answers in this cycle (R44, U11). -/
def State.fbRdata (s : State) : Byte := Memory.read s.fb s.fbRaddr

/-- `lnext = line + 1`, a natural number (R64, R90). -/
def State.lnext (s : State) : Nat := s.line.toNat + 1

end Sys2Proof.Machine
end

