-- ==== Sys2Proof/Machine/Flags.lean ====
section
/-! DEFINITION. The six conditions of R23, computed from the registers and parameters in every cycle, the control word of
R62, and the set of operations that fire (R63, R64). -/

namespace Sys2Proof.Machine

/-- `tick`: the last cycle of a line (R23, R122). -/
def State.tick (s : State) : Bool := s.hcnt == s.params.lineLast

/-- `trig`: the sub-line trigger, a condition and not a register (R23, R124). -/
def State.trig (s : State) : Bool := s.trigEn && s.hcnt == s.params.pictureDelay

/-- `seq_busy`: the sequencer has a row in progress (R23). -/
def State.seqBusy (s : State) : Bool := s.bidx != 8

/-- `bit_end`: the last cycle of a bit period (R23). -/
def State.bitEnd (s : State) : Bool := s.bdiv == s.params.bitLast

/-- `ready`: the shifter is empty, or in the last cycle of its last bit (R23). -/
def State.ready (s : State) : Bool := s.bcnt == 0 || (s.bcnt == 1 && s.bitEnd)

/-- `shifting`: the shifter is not empty (R23). -/
def State.shifting (s : State) : Bool := s.bcnt != 0

/-- The control word `cw[7:0]` of the cycle (R62). -/
def State.controlWord (s : State) : ControlWord :=
  controlBits s.input.rst s.tick s.trig s.seqBusy s.ready s.shifting s.bitEnd s.input.fbWe

/-- The operations that fire in this cycle, in the order of write priority (R30, R63, R64). -/
def State.firing (s : State) : List Instr := decode s.controlWord s.lnext

/-- `fires(OP)`: the operation fires in this cycle (R63, R64). -/
def State.fires (s : State) (i : Instr) : Bool := s.firing.contains i

end Sys2Proof.Machine
end

