-- ==== Sys2Proof/Machine/HostPort.lean ====
section
/-! DEFINITION. The application's operation FBWRITE (R140), on the framebuffer, and RESET (R170), which the application
asks for with `rst`. -/

namespace Sys2Proof.Machine

/-- FBWRITE, one byte written by the application through the ports of this cycle; nothing at 384 and above (R140). -/
def execFbwrite (s : State) : Host.Outcome State Fault Refusal :=
  .next (s.setFb (Memory.write s.fb s.input.fbWaddr s.input.fbWdata))

/-- RESET: every register takes its reset value; the framebuffer is not touched (R170). -/
def execReset (s : State) : Host.Outcome State Fault Refusal := .next (State.afterReset s.params s.fb s.inputs)

end Sys2Proof.Machine
end

