-- ==== Sys2Proof/Machine/LineTimer.lean ====
section
/-! DEFINITION. The line timer (R120 to R127): HCOUNT and TICK. -/

namespace Sys2Proof.Machine

/-- HCOUNT, a cycle inside a line: `hcnt <- hcnt + 1` (R121). -/
def execHcount (s : State) : Host.Outcome State Fault Refusal := .next (s.setHcnt (hcntNext s.params s.hcnt))

/-- TICK, the last cycle of a line: `hcnt <- 0` and the one operation of format L that `lnext` selects (R122), whose
effect on the four registers of the timing state machine is `tsm_tick` (R91). -/
def execTick (s : State) : Host.Outcome State Fault Refusal := .next ((s.setHcnt 0).setTsm (tsmTick s.tsm))

end Sys2Proof.Machine
end

