-- ==== Sys2Proof/Machine/Serializer.lean ====
section
/-! DEFINITION. The line serializer (R100 to R112): the sequencer's START, TRIGDROP, LOAD and WAIT, the shifter's SHIFT and
BITHOLD. Each is the effect of the operation when it fires. -/

namespace Sys2Proof.Machine

/-- START, the trigger taken: `row <- ((line - 29) mod 512)[7:2]; bidx <- 0` (R101). -/
def execStart (s : State) : Host.Outcome State Fault Refusal := .next ((s.setRow (rowIndex s.line)).setBidx 0)

/-- TRIGDROP, the trigger not taken: no register changes (R102). -/
def execTrigdrop (s : State) : Host.Outcome State Fault Refusal := .next s

/-- LOAD, the next byte handed to the shifter: `sr <- MemRead(fb_raddr); bcnt <- 8; bdiv <- 0; bidx <- bidx + 1` (R103). -/
def execLoad (s : State) : Host.Outcome State Fault Refusal :=
  .next ((s.setBidx (bidxNext s.bidx)).setShifter s.fbRdata 8 0)

/-- WAIT, the sequencer blocked on the shifter: no register changes (R104). -/
def execWait (s : State) : Host.Outcome State Fault Refusal := .next s

/-- SHIFT, the end of a bit period: `sr <- (sr << 1) mod 256; bcnt <- bcnt - 1; bdiv <- 0` (R105). -/
def execShift (s : State) : Host.Outcome State Fault Refusal := .next (s.setShifter (s.sr <<< 1) (bcntPrev s.bcnt) 0)

/-- BITHOLD, a bit period that is not yet over: `bdiv <- bdiv + 1` (R106). -/
def execBithold (s : State) : Host.Outcome State Fault Refusal := .next (s.setBdiv (bdivNext s.params s.bdiv))

end Sys2Proof.Machine
end

