-- ==== Sys2Proof/Machine/TimingStateMachine.lean ====
section
/-! DEFINITION. The timing state machine (R80 to R91): the seven operations of format L. Each is the effect of the
operation when it fires; which of them fires on a tick is `decodeLine`. -/

namespace Sys2Proof.Machine

/-- LSTEP, a tick inside a phase: `line <- line + 1` (R81). -/
def execLstep (s : State) : Host.Outcome State Fault Refusal := .next (s.setLine (lineNext s.line))

/-- LWAKE, entry of PreActive: `line <- 25; lpm_req <- 0` (R82). -/
def execLwake (s : State) : Host.Outcome State Fault Refusal := .next ((s.setLine 25).setLpmReq false)

/-- LARM, entry of ActivePicture: `line <- 29; trig_en <- 1` (R83). -/
def execLarm (s : State) : Host.Outcome State Fault Refusal := .next ((s.setLine 29).setTrigEn true)

/-- LDISARM, entry of PostActive: `line <- 221; trig_en <- 0` (R84). -/
def execLdisarm (s : State) : Host.Outcome State Fault Refusal := .next ((s.setLine 221).setTrigEn false)

/-- LVSYNC, entry of VSyncPulse: `line <- 247; sync_wide <- 1` (R85). -/
def execLvsync (s : State) : Host.Outcome State Fault Refusal := .next ((s.setLine 247).setSyncWide true)

/-- LHSYNC, entry of PostSync: `line <- 249; sync_wide <- 0` (R86). -/
def execLhsync (s : State) : Host.Outcome State Fault Refusal := .next ((s.setLine 249).setSyncWide false)

/-- LWRAP, the frame boundary: `line <- 0; lpm_req <- 1` (R87). -/
def execLwrap (s : State) : Host.Outcome State Fault Refusal := .next ((s.setLine 0).setLpmReq true)

end Sys2Proof.Machine
end

