-- ==== Sys2Proof/Machine/Dispatch.lean ====
section
/-! DEFINITION. What each operation does when it fires: one arm per operation, one direct call of its meaning. -/

namespace Sys2Proof.Machine

def exec (i : Instr) (s : State) : Host.Outcome State Fault Refusal :=
  match i with
  | .reset => Sys2Proof.Machine.execReset s
  | .hcount => Sys2Proof.Machine.execHcount s
  | .tick => Sys2Proof.Machine.execTick s
  | .start => Sys2Proof.Machine.execStart s
  | .trigdrop => Sys2Proof.Machine.execTrigdrop s
  | .load => Sys2Proof.Machine.execLoad s
  | .wait => Sys2Proof.Machine.execWait s
  | .shift => Sys2Proof.Machine.execShift s
  | .bithold => Sys2Proof.Machine.execBithold s
  | .fbwrite => Sys2Proof.Machine.execFbwrite s
  | .lwake => Sys2Proof.Machine.execLwake s
  | .larm => Sys2Proof.Machine.execLarm s
  | .ldisarm => Sys2Proof.Machine.execLdisarm s
  | .lvsync => Sys2Proof.Machine.execLvsync s
  | .lhsync => Sys2Proof.Machine.execLhsync s
  | .lwrap => Sys2Proof.Machine.execLwrap s
  | .lstep => Sys2Proof.Machine.execLstep s

end Sys2Proof.Machine
end

