-- ==== Sys2Proof/Machine/Outputs.lean ====
section
/-! DEFINITION. The phase (R24) and the output ports of R11, each a function of the registers (R25). The ports `line`,
`trig_en` and `lpm_req` are the registers of those names; `fb_raddr` is `State.fbRaddr`. -/

namespace Sys2Proof.Machine

/-- The six phases, in the order of the table of R65. -/
inductive Phase where
  | lowPowerWait
  | preActive
  | activePicture
  | postActive
  | vsyncPulse
  | postSync
  deriving DecidableEq, Repr

/-- `phase(n)`; not defined above 260 (R24). -/
def phaseOf (n : Nat) : Option Phase :=
  if n ≤ 24 then some .lowPowerWait
  else if n ≤ 28 then some .preActive
  else if n ≤ 220 then some .activePicture
  else if n ≤ 246 then some .postActive
  else if n ≤ 248 then some .vsyncPulse
  else if n ≤ 260 then some .postSync
  else none

/-- The code of a phase on the port `phase[2:0]` (R65). -/
def phaseCode : Phase → BitVec 3
  | .lowPowerWait => 0
  | .preActive => 1
  | .activePicture => 2
  | .postActive => 3
  | .vsyncPulse => 4
  | .postSync => 5

/-- The port `phase[2:0]` (R25, R65); a free value for a reserved line number (R69, log entry 10). -/
def State.phasePort (s : State) : BitVec 3 :=
  match phaseOf s.line.toNat with
  | some ph => phaseCode ph
  | none => Config.phaseOfReserved s.line

/-- The width of this line's sync pulse (R123, R66). -/
def State.syncWidth (s : State) : Nat := if s.syncWide then s.params.vsyncWidth else s.params.hsyncWidth

/-- The port `sync_n`: 0 (false) inside the sync pulse (R123). -/
def State.syncN (s : State) : Bool := !decide (s.hcnt < s.syncWidth)

/-- The port `video`: 1 (true) is illuminated; dark whenever the shifter is empty (R107). -/
def State.video (s : State) : Bool := s.shifting && s.sr.getLsbD 7

/-- All output ports of R11. -/
structure Ports where
  fbRaddr : FbAddr
  syncN : Bool
  video : Bool
  lpmReq : Bool
  trigEn : Bool
  line : LineNum
  phase : BitVec 3
  deriving DecidableEq, Repr

/-- What the block drives in this cycle, a function of the registers alone (R11, R25). -/
def State.ports (s : State) : Ports :=
  ⟨s.fbRaddr, s.syncN, s.video, s.lpmReq, s.trigEn, s.line, s.phasePort⟩

/-- The levels of the composite signal that the table of R66 names. -/
inductive CompositeLevel where
  | sync
  | black
  | white
  deriving DecidableEq, Repr

/-- What the two pins mean on the composite signal (R66); `none` for the reserved combination, whose level is not
specified (U3, log entry 16). -/
def compositeLevel (syncN video : Bool) : Option CompositeLevel :=
  match syncN, video with
  | false, false => some .sync
  | true, false => some .black
  | true, true => some .white
  | false, true => none

/-- The pixel in column `x` of row `y` of the framebuffer: bit `7 - (x mod 8)` of the byte at `y * 8 + x / 8` (R43). -/
def pixelAt (m : List Host.Cell) (x y : Nat) : Bool := (Memory.byteAt m (y * 8 + x / 8)).getLsbD (7 - x % 8)

end Sys2Proof.Machine
end

