-- ==== Sys2Proof/Machine/Cycle.lean ====
section
/-! DEFINITION. One clock cycle (R30): every operation whose condition holds runs on the same state, and the next value of
each register is taken from the operation that writes it, by the priority of R30. Also what it takes to have a given table
word selected in the very next cycle. -/

namespace Sys2Proof.Machine

/-- Every operation of the list run on the same state; the first stop, if one stops. -/
def runAll (s : State) : List Instr → Host.Outcome (List (Instr × State)) Fault Refusal
  | [] => .next []
  | i :: rest =>
    match exec i s with
    | .next t =>
      match runAll s rest with
      | .next rs => .next ((i, t) :: rs)
      | .fault f => .fault f
      | .refused r => .refused r
    | .fault f => .fault f
    | .refused r => .refused r

/-- One cycle (R30): run what fires, commit by priority, and use up the cycle's input. -/
def cycle (s : State) : Host.Outcome State Fault Refusal :=
  match runAll s s.firing with
  | .next results => .next (commitAll s results).endCycle
  | .fault f => .fault f
  | .refused r => .refused r

/-- A configuration and registers whose control word shows the bits of `w`, as far as bits of one control word can stand
together: `ready` and `shifting` are set so that the operation the decoder names for `w` is among those selected, because
no state has both 0, and none has both 1 with `bit_end` 0 (log entry 13). -/
def placeControl (s : State) (w : ControlWord) : State :=
  let tick := w.getLsbD 6
  let trig := w.getLsbD 5
  let busy := w.getLsbD 4
  let ready := w.getLsbD 3
  let shifting := w.getLsbD 2
  let bitEnd := w.getLsbD 1
  let base : Params := if bitEnd then .t80 else .t160
  { s with
    params := if tick && trig then { base with pictureDelay := base.lineLast } else base
    hcnt := if tick then base.lineLast else if trig then base.pictureDelay else 0
    line := if trig then 29 else s.line
    trigEn := trig || s.trigEn
    bidx := if busy then 0 else 8
    bcnt :=
      if ready then (if shifting then (if bitEnd then 1 else if busy then 0 else 2) else 0)
      else if shifting || busy then 2
      else 0
    bdiv := 0
    inputs := { rst := w.getLsbD 7, fbWe := w.getLsbD 0, fbWaddr := 0, fbWdata := 0 } :: s.inputs.tail }

/-- A state in the last cycle of a line for which `line + 1` has the nine bits `w`, with nothing on the input ports: the
tick selects the operation of format L with that number (R64, log entry 13). -/
def placeLine (s : State) (w : Nat) : State :=
  { s with
    params := .t80
    hcnt := Params.t80.lineLast
    line := BitVec.ofNat 9 (w + 511)
    inputs := Input.idle :: s.inputs.tail }

end Sys2Proof.Machine
end

