-- ==== Sys2Proof/Machine/Step.lean ====
section
/-! DEFINITION. The step, which is one clock cycle (R30), and the placing of a table word where the next cycle selects it. -/

namespace Sys2Proof.Machine

/-- One step of the machine: one cycle of `clk` (R30). -/
def step (s : State) : Host.Outcome State Fault Refusal := cycle s

/-- `s` set up so that the very next cycle selects, and runs, the operation of a table word: a control word for 8 bits, an
`lnext` otherwise (log entry 13). -/
def State.withFetchWord (s : State) (nbits w : Nat) : State :=
  if nbits = 8 then placeControl s (BitVec.ofNat 8 w) else placeLine s w

end Sys2Proof.Machine
end

