-- ==== Sys2Proof/Machine/Stimulus.lean ====
section
/-! DEFINITION. The stimulus notation of R72 and R73: the 19-bit input word of a cycle, the statements with their
encodings and expansions, and the running of a list of statements from the state after RESET. -/

namespace Sys2Proof.Machine

/-- The input word `in[18:0]`: `rst`, `fb_we`, `fb_waddr[8:0]`, `fb_wdata[7:0]`, from the most significant bit down (R72). -/
def Input.toWord (i : Input) : BitVec 19 :=
  BitVec.ofBool i.rst ++ BitVec.ofBool i.fbWe ++ i.fbWaddr ++ i.fbWdata

/-- The inputs a word stands for (R72). Every word is an input: there is no illegal one. -/
def Input.ofWord (w : BitVec 19) : Input :=
  { rst := w.getLsbD 18, fbWe := w.getLsbD 17, fbWaddr := w.extractLsb' 8 9, fbWdata := w.extractLsb' 0 8 }

/-- What an `EXP` statement names: registers and outputs with the values they must have in the current cycle; a name not
written is `none` (R72). -/
structure Expectation where
  hcnt : Option Nat := none
  line : Option LineNum := none
  trigEn : Option Bool := none
  syncWide : Option Bool := none
  lpmReq : Option Bool := none
  row : Option RowIdx := none
  bidx : Option Count := none
  sr : Option Byte := none
  bcnt : Option Count := none
  bdiv : Option Nat := none
  syncN : Option Bool := none
  video : Option Bool := none
  phase : Option (BitVec 3) := none
  fbRaddr : Option FbAddr := none
  deriving DecidableEq, Repr

/-- One named value, if it is named, against what the state shows. -/
def expected {α : Type} [DecidableEq α] (want : Option α) (got : α) : Bool :=
  match want with
  | none => true
  | some v => decide (v = got)

/-- Every name of an `EXP` has its value in the current cycle (R72). -/
def Expectation.holds (e : Expectation) (s : State) : Bool :=
  expected e.hcnt s.hcnt && expected e.line s.line && expected e.trigEn s.trigEn && expected e.syncWide s.syncWide
    && expected e.lpmReq s.lpmReq && expected e.row s.row && expected e.bidx s.bidx && expected e.sr s.sr
    && expected e.bcnt s.bcnt && expected e.bdiv s.bdiv && expected e.syncN s.syncN && expected e.video s.video
    && expected e.phase s.phasePort && expected e.fbRaddr s.fbRaddr

/-- The statements of R72 and the pseudo-statements of R73; `TICKS` works on the timing state machine alone and is
`tsmTicks`. -/
inductive Stimulus where
  /-- `CFG`: the parameters. -/
  | cfg (p : Params)
  /-- `FBI a, v`: a framebuffer byte at power-up. -/
  | fbi (a : FbAddr) (v : Byte)
  /-- `FILL v`: `FBI` for every address. -/
  | fill (v : Byte)
  /-- `ROW r: b0 .. b7`: `FBI` for the bytes of a row. -/
  | row (r : RowIdx) (bytes : Vector Byte 8)
  /-- `RST`: one cycle of reset. -/
  | rst
  /-- `CLK n`: `n` cycles without reset or write. -/
  | clk (n : Nat)
  /-- `FBW a, v`: one cycle with a write. -/
  | fbw (a : FbAddr) (v : Byte)
  /-- `LINES n`. -/
  | lines (n : Nat)
  /-- `FRAME`. -/
  | frame
  /-- `CLEAR`: 384 writes of 0x00. -/
  | clear
  /-- `EXP`. -/
  | exp (e : Expectation)

/-- The input word of `FBW a, v`: `0x20000 + a * 256 + v` (R72). -/
def fbwWord (a : FbAddr) (v : Byte) : BitVec 19 := BitVec.ofNat 19 (0x20000 + a.toNat * 256 + v.toNat)

/-- The input words a statement stands for, one per cycle; none for a statement that takes no time (R72, R73). -/
def Stimulus.words (p : Params) : Stimulus → List (BitVec 19)
  | .cfg _ => []
  | .fbi _ _ => []
  | .fill _ => []
  | .row _ _ => []
  | .rst => [0x40000]
  | .clk n => List.replicate n 0x00000
  | .fbw a v => [fbwWord a v]
  | .lines n => List.replicate (n * p.lineWidth) 0x00000
  | .frame => List.replicate (261 * p.lineWidth) 0x00000
  | .clear => (List.range 384).map fun a => fbwWord (BitVec.ofNat 9 a) 0
  | .exp _ => []

/-- What a statement fixes before the first cycle: the parameters, and bytes of the framebuffer at power-up (R72, R73). -/
def Stimulus.prepare (st : Stimulus) (s : State) : State :=
  match st with
  | .cfg p => { s with params := p }
  | .fbi a v => s.setFb (Memory.write s.fb a v)
  | .fill v => s.setFb ((List.range 384).foldl (fun m a => Memory.write m (BitVec.ofNat 9 a) v) s.fb)
  | .row r bytes =>
    s.setFb ((List.range 8).foldl
      (fun m k => Memory.write m (BitVec.ofNat 9 (r.toNat * 8 + k)) (bytes.toList.getD k 0)) s.fb)
  | _ => s

/-- The cycles of a list of input words, one after another; what is left over of `inputs` is replaced by them. -/
def runWords : List (BitVec 19) → State → Host.Outcome State Fault Refusal
  | [], s => .next { s with inputs := [] }
  | w :: ws, s =>
    match step { s with inputs := [Input.ofWord w] } with
    | .next t => runWords ws t
    | .fault f => .fault f
    | .refused r => .refused r

/-- A list of statements run from `s`: the final state, and whether every `EXP` on the way held. -/
def runStimulus : List Stimulus → State → Host.Outcome (State × Bool) Fault Refusal
  | [], s => .next (s, true)
  | .exp e :: rest, s =>
    match runStimulus rest s with
    | .next (t, ok) => .next (t, e.holds s && ok)
    | .fault f => .fault f
    | .refused r => .refused r
  | st :: rest, s =>
    match runWords (st.words s.params) (st.prepare s) with
    | .next t => runStimulus rest t
    | .fault f => .fault f
    | .refused r => .refused r

end Sys2Proof.Machine
end

