-- ==== Sys2Proof/Safety.lean ====
section
/-! DEFINITION. The terms of the claims: runs of the machine, cycles without a reset, the invariants I1 to I8 of R31, and
where the serializer stands in the line under a legal configuration (I9 to I11, R108). -/

namespace Sys2Proof.Machine

/-- `n` cycles of the machine. -/
abbrev run (n : Nat) (s : State) : Host.Outcome State Fault Refusal := Host.Core.run Sys2Proof.core n s

/-- The application asserts no reset in the next `n` cycles. -/
abbrev NoReset (n : Nat) (s : State) : Prop := ∀ i ∈ s.inputs.take n, i.rst = false

/-- The application writes no framebuffer byte in the next `n` cycles. -/
abbrev NoWrite (n : Nat) (s : State) : Prop := ∀ i ∈ s.inputs.take n, i.fbWe = false

/-- Operations run one after another, each on the state the one before it left. -/
def runInTurn : List Instr → State → Host.Outcome State Fault Refusal
  | [], s => .next s
  | i :: rest, s =>
    match exec i s with
    | .next t => runInTurn rest t
    | .fault f => .fault f
    | .refused r => .refused r

/-- An order in which the operations of one cycle can be run one after another: whatever reads a register comes before
what writes it, and SHIFT before LOAD, which wins (R30, R111). The operation of format L runs inside TICK (R122). -/
def turnOrder : List Instr :=
  [.shift, .bithold, .load, .wait, .start, .trigdrop, .tick, .hcount, .reset, .fbwrite]

/-- The five registers of the serializer (R157) are the same in two states. -/
abbrev SameSerializer (s t : State) : Prop :=
  s.row = t.row ∧ s.bidx = t.bidx ∧ s.sr = t.sr ∧ s.bcnt = t.bcnt ∧ s.bdiv = t.bdiv

/-- The registers of the line timer and of the timing state machine (R157) are the same in two states. -/
abbrev SameTiming (s t : State) : Prop := s.hcnt = t.hcnt ∧ s.tsm = t.tsm

/-- The line is one of phase ActivePicture (R24). -/
abbrev State.active (s : State) : Prop := 29 ≤ s.line.toNat ∧ s.line.toNat ≤ 220

/-- The sequencer has no row in progress and the shifter is empty. -/
abbrev State.serializerIdle (s : State) : Prop := s.bidx = 8 ∧ s.bcnt = 0

/-- The invariants I1 to I7 of R31, which hold for every configuration; I8 follows from them. Of I5 it is the part that
needs no history. -/
structure Inv (s : State) : Prop where
  /-- I1. -/
  hcnt_le : s.hcnt ≤ s.params.lineLast
  /-- I2. -/
  line_le : s.line.toNat ≤ 260
  /-- I3. -/
  trigEn_iff : s.trigEn = true ↔ 29 ≤ s.line.toNat ∧ s.line.toNat ≤ 220
  /-- I4. -/
  syncWide_iff : s.syncWide = true ↔ 247 ≤ s.line.toNat ∧ s.line.toNat ≤ 248
  /-- I5, first part. -/
  lpmReq_line : s.lpmReq = true → s.line.toNat ≤ 24
  /-- I6, `bidx`. -/
  bidx_le : s.bidx.toNat ≤ 8
  /-- I6, `bcnt`. -/
  bcnt_le : s.bcnt.toNat ≤ 8
  /-- I6, `bdiv`. -/
  bdiv_le : s.bdiv ≤ s.params.bitLast
  /-- I6, `row`. -/
  row_le : s.row.toNat ≤ 47
  /-- I7. -/
  bdiv_empty : s.bcnt = 0 → s.bdiv = 0

/-- The cycle of the line in which the bit now on the pin is shown, counted from what is left to send: byte `bidx - 1`,
of which `8 - bcnt` bits are over and the present one has been shown for `bdiv` cycles (R108). -/
def State.scanCycle (s : State) : Nat :=
  s.params.pictureDelay + 2 + 8 * (s.bidx.toNat - 1) * s.params.bitDiv + (8 - s.bcnt.toNat) * s.params.bitDiv + s.bdiv

/-- Where the serializer stands in a line, under a legal configuration (R108): idle before the trigger and after the last
pixel and on every line that is not active; about to load byte 0 in the cycle after the trigger; else showing the bit that
the cycle demands, of the row of this line. -/
structure ScanInv (s : State) : Prop where
  /-- I1 to I7. -/
  inv : Inv s
  /-- K1 to K4. -/
  legal : s.params.Legal
  /-- R108. -/
  position :
    (s.serializerIdle ∧
      (s.active → s.hcnt ≤ s.params.pictureDelay ∨ s.params.pictureDelay + 2 + 64 * s.params.bitDiv ≤ s.hcnt)) ∨
    (s.active ∧ s.row = rowIndex s.line ∧ s.bidx = 0 ∧ s.bcnt = 0 ∧ s.hcnt = s.params.pictureDelay + 1) ∨
    (s.active ∧ s.row = rowIndex s.line ∧ 1 ≤ s.bidx.toNat ∧ 1 ≤ s.bcnt.toNat ∧ s.hcnt = s.scanCycle)

end Sys2Proof.Machine
end

