-- ==== Sys2Proof/Certificates/Slice0/Obligations.lean ====
section
/-! DEFINITION. The statements for the provers, from the numbered rules of the spec. -/

open Sys2Proof Sys2Proof.Machine

/-! ### Selection and encodings -/

/-- R63: each row of format C fires exactly by its mask and match, what fires together is as the groups say, and of LOAD
and SHIFT together LOAD's writes win. -/
def Obligations.ControlRowsAndGroups : Prop :=
  ∀ (cw : ControlWord) (lnext : Nat),
    (.reset ∈ decode cw lnext ↔ cw &&& 0x80 = 0x80) ∧
    (.hcount ∈ decode cw lnext ↔ cw &&& 0xC0 = 0x00) ∧
    (.tick ∈ decode cw lnext ↔ cw &&& 0xC0 = 0x40) ∧
    (.start ∈ decode cw lnext ↔ cw &&& 0xB0 = 0x20) ∧
    (.trigdrop ∈ decode cw lnext ↔ cw &&& 0xB0 = 0x30) ∧
    (.load ∈ decode cw lnext ↔ cw &&& 0x98 = 0x18) ∧
    (.wait ∈ decode cw lnext ↔ cw &&& 0x98 = 0x10) ∧
    (.shift ∈ decode cw lnext ↔ cw &&& 0x86 = 0x06) ∧
    (.bithold ∈ decode cw lnext ↔ cw &&& 0x86 = 0x04) ∧
    (.fbwrite ∈ decode cw lnext ↔ cw &&& 0x01 = 0x01) ∧
    wellFormed (decode cw lnext) = true ∧
    (∀ s : State, s.controlWord = cw → .load ∈ decode cw lnext → .shift ∈ decode cw lnext →
      ∃ t, step s = .next t ∧ t.sr = s.fbRdata ∧ t.bcnt = 8 ∧ t.bdiv = 0)

/-- R64: in a cycle in which TICK fires exactly the operation of format L with the number `line + 1` fires; in no other
cycle any. -/
def Obligations.LineRowsByTheNextNumber : Prop :=
  ∀ s : State,
    (s.fires .lwake = true ↔ s.fires .tick = true ∧ s.line.toNat + 1 = 25) ∧
    (s.fires .larm = true ↔ s.fires .tick = true ∧ s.line.toNat + 1 = 29) ∧
    (s.fires .ldisarm = true ↔ s.fires .tick = true ∧ s.line.toNat + 1 = 221) ∧
    (s.fires .lvsync = true ↔ s.fires .tick = true ∧ s.line.toNat + 1 = 247) ∧
    (s.fires .lhsync = true ↔ s.fires .tick = true ∧ s.line.toNat + 1 = 249) ∧
    (s.fires .lwrap = true ↔ s.fires .tick = true ∧ s.line.toNat + 1 = 261) ∧
    (s.fires .lstep = true ↔ s.fires .tick = true ∧
      s.line.toNat + 1 ∉ [25, 29, 221, 247, 249, 261])

/-- Every well-formed set of operations is what its own words select. -/
def Obligations.EncodedSelectionDecodesBack : Prop :=
  ∀ ops : List Instr, wellFormed ops = true →
    ∀ i : Instr, i ∈ decode (encode ops).1 (encode ops).2 ↔ i ∈ ops

/-- R72: the input word and the inputs stand for each other, bit by bit, and the statements' words are the inputs they
name. -/
def Obligations.InputWordRoundTrip : Prop :=
  (∀ i : Input, Input.ofWord i.toWord = i) ∧
  (∀ w : BitVec 19, (Input.ofWord w).toWord = w) ∧
  (∀ i : Input, i.toWord.toNat =
    i.rst.toNat * 0x40000 + i.fbWe.toNat * 0x20000 + i.fbWaddr.toNat * 256 + i.fbWdata.toNat) ∧
  (∀ (p : Params) (a : FbAddr) (v : Byte), ((Stimulus.fbw a v).words p).map Input.ofWord = [⟨false, true, a, v⟩]) ∧
  (∀ p : Params, (Stimulus.rst.words p).map Input.ofWord = [⟨true, false, 0, 0⟩]) ∧
  (∀ (p : Params) (n : Nat), ((Stimulus.clk n).words p).map Input.ofWord = List.replicate n Input.idle)

/-- Control words of `95_test_vectors.md` section 2.6 and line numbers of R64, with what they select. -/
def Obligations.PrintedWordsSelect : Prop :=
  decode 0x2A 30 = [.start, .hcount] ∧ decode 0x1E 30 = [.load, .shift, .hcount] ∧
  decode 0x36 30 = [.trigdrop, .wait, .shift, .hcount] ∧ decode 0x14 30 = [.wait, .bithold, .hcount] ∧
  decode 0x8B 30 = [.reset, .fbwrite] ∧ decode 0xEA 30 = [.reset] ∧
  decode 0x4A 25 = [.tick, .lwake] ∧ decode 0x4A 29 = [.tick, .larm] ∧ decode 0x4A 221 = [.tick, .ldisarm] ∧
  decode 0x4A 247 = [.tick, .lvsync] ∧ decode 0x4A 249 = [.tick, .lhsync] ∧ decode 0x4A 261 = [.tick, .lwrap] ∧
  decode 0x4E 31 = [.shift, .tick, .lstep]

/-- A table word placed in any state is selected in the very next cycle: the operation it names fires, and the step has a
next state. -/
def Obligations.PlacedWordFiresNext : Prop :=
  ∀ (s : State) (nbits w : Nat) (i : Instr), decodeTableWord nbits w = some i →
    (s.withFetchWord nbits w).fires i = true ∧ ∃ t, step (s.withFetchWord nbits w) = .next t

/-! ### The cycle -/

/-- R30: the next state, register by register, from what each firing operation gives on the same old state. That the
configuration is a field of the state, which no step changes (log entry 2), and that the inputs to come are a list of which a
step uses up the first (log entry 3), is the model's choice. -/
def Obligations.StepTakesEachRegisterByPriority : Prop :=
  ∀ s : State, ∃ r : Instr → State, (∀ i, exec i s = .next (r i)) ∧ ∃ t, step s = .next t ∧
    t.hcnt = (if s.fires .reset then (r .reset).hcnt else if s.fires .tick then (r .tick).hcnt
      else (r .hcount).hcnt) ∧
    t.tsm = (if s.fires .reset then (r .reset).tsm else if s.fires .tick then (r (decodeLine s.lnext)).tsm
      else s.tsm) ∧
    t.row = (if s.fires .reset then (r .reset).row else if s.fires .start then (r .start).row else s.row) ∧
    t.bidx = (if s.fires .reset then (r .reset).bidx else if s.fires .start then (r .start).bidx
      else if s.fires .load then (r .load).bidx else s.bidx) ∧
    t.sr = (if s.fires .reset then (r .reset).sr else if s.fires .load then (r .load).sr
      else if s.fires .shift then (r .shift).sr else s.sr) ∧
    t.bcnt = (if s.fires .reset then (r .reset).bcnt else if s.fires .load then (r .load).bcnt
      else if s.fires .shift then (r .shift).bcnt else s.bcnt) ∧
    t.bdiv = (if s.fires .reset then (r .reset).bdiv else if s.fires .load then (r .load).bdiv
      else if s.fires .shift then (r .shift).bdiv else if s.fires .bithold then (r .bithold).bdiv else s.bdiv) ∧
    t.fb = (if s.fires .fbwrite then (r .fbwrite).fb else s.fb) ∧
    t.params = s.params ∧ t.inputs = s.inputs.tail

/-- A cycle that selects one operation is that operation and the end of the cycle; so is a cycle of a tick alone, TICK
holding its operation of format L. -/
def Obligations.LoneOperationIsTheStep : Prop :=
  (∀ (s : State) (i : Instr), s.firing = [i] → ∃ t, exec i s = .next t ∧ step s = .next t.endCycle) ∧
  (∀ (s : State) (l : Instr), s.firing = [.tick, l] → ∃ t, exec .tick s = .next t ∧ step s = .next t.endCycle)

/-- A cycle, in which everything reads the old state at once, is the same as its operations run one after another in a
fixed order. That `exec` of TICK holds its operation of format L is the model's choice (log entry 11), and so is the
used-up input (log entry 3). -/
def Obligations.CycleEqualsOperationsInTurn : Prop :=
  ∀ s : State, ∃ t, runInTurn (turnOrder.filter fun i => s.fires i) s = .next t ∧ step s = .next t.endCycle

/-- R150: every operation and every step is total. -/
def Obligations.EveryOperationAndStepIsTotal : Prop :=
  (∀ (i : Instr) (s : State), ∃ t, exec i s = .next t) ∧ ∀ s : State, ∃ t, step s = .next t

/-- R155: what happens together in one cycle, row by row of the table. -/
def Obligations.SimultaneousEvents : Prop :=
  ∀ s : State, ∃ t, step s = .next t ∧
    (s.input.rst = true → (∀ i, s.fires i = true → i = .reset ∨ i = .fbwrite) ∧
      (s.input.fbWe = true → s.fires .fbwrite = true ∧ t.fb = Memory.write s.fb s.input.fbWaddr s.input.fbWdata)) ∧
    (s.input.rst = false → s.tick = true → s.trig = true → s.bidx = 8 →
      s.fires .tick = true ∧ s.fires .start = true ∧ t.hcnt = 0 ∧ t.tsm = tsmTick s.tsm ∧
      t.row = rowIndex s.line ∧ t.bidx = 0) ∧
    (s.tick = true → s.trig = true → s.params.pictureDelay = s.params.lineLast ∧ ¬ s.params.Legal) ∧
    (s.input.rst = false → s.tick = true → s.fires .load = true →
      s.fires .tick = true ∧ t.hcnt = 0 ∧ t.tsm = tsmTick s.tsm ∧ t.sr = s.fbRdata) ∧
    (s.input.rst = false → s.tick = true → s.fires .shift = true → s.fires .load = false →
      s.fires .tick = true ∧ t.hcnt = 0 ∧ t.tsm = tsmTick s.tsm ∧ t.sr = s.sr <<< 1) ∧
    (s.fires .load = true → s.fires .shift = true → t.sr = s.fbRdata ∧ t.bcnt = 8 ∧ t.bdiv = 0) ∧
    (s.input.rst = false → s.trig = true → s.bidx ≠ 8 →
      s.fires .trigdrop = true ∧ s.fires .start = false ∧ t.row = s.row) ∧
    (s.fires .load = true → s.fires .fbwrite = true → s.input.fbWaddr = s.fbRaddr →
      t.sr = Memory.read s.fb s.fbRaddr)

/-- R10, "written by": a register changes only in a cycle in which an operation that writes it fires; the configuration
never changes. -/
def Obligations.RegistersChangeOnlyByTheirWriters : Prop :=
  ∀ s t : State, step s = .next t →
    t.params = s.params ∧
    (t.hcnt ≠ s.hcnt → s.fires .hcount = true ∨ s.fires .tick = true ∨ s.fires .reset = true) ∧
    (t.line ≠ s.line → s.fires .tick = true ∨ s.fires .reset = true) ∧
    (t.trigEn ≠ s.trigEn → s.fires .larm = true ∨ s.fires .ldisarm = true ∨ s.fires .reset = true) ∧
    (t.syncWide ≠ s.syncWide → s.fires .lvsync = true ∨ s.fires .lhsync = true ∨ s.fires .reset = true) ∧
    (t.lpmReq ≠ s.lpmReq → s.fires .lwrap = true ∨ s.fires .lwake = true ∨ s.fires .reset = true) ∧
    (t.row ≠ s.row → s.fires .start = true ∨ s.fires .reset = true) ∧
    (t.bidx ≠ s.bidx → s.fires .start = true ∨ s.fires .load = true ∨ s.fires .reset = true) ∧
    (t.sr ≠ s.sr → s.fires .load = true ∨ s.fires .shift = true ∨ s.fires .reset = true) ∧
    (t.bcnt ≠ s.bcnt → s.fires .load = true ∨ s.fires .shift = true ∨ s.fires .reset = true) ∧
    (t.bdiv ≠ s.bdiv →
      s.fires .load = true ∨ s.fires .shift = true ∨ s.fires .bithold = true ∨ s.fires .reset = true) ∧
    (t.fb ≠ s.fb → s.fires .fbwrite = true)

/-! ### Reset and the application -/

/-- R170: RESET. -/
def Obligations.ResetGivesEveryRegisterItsValue : Prop :=
  ∀ s : State,
    exec .reset s = .next { s with hcnt := 0, line := 0, trigEn := false, syncWide := false, lpmReq := false,
                                   row := 0, bidx := 8, sr := 0, bcnt := 0, bdiv := 0 } ∧
    (s.fires .reset = true ↔ s.input.rst = true) ∧
    (s.input.rst = true →
      (∀ i, s.fires i = true → i = .reset ∨ i = .fbwrite) ∧
      ∃ t, step s = .next t ∧ t.hcnt = 0 ∧ t.line = 0 ∧ t.trigEn = false ∧ t.syncWide = false ∧ t.lpmReq = false ∧
        t.row = 0 ∧ t.bidx = 8 ∧ t.sr = 0 ∧ t.bcnt = 0 ∧ t.bdiv = 0 ∧
        t.video = false ∧ (1 ≤ s.params.hsyncWidth → t.syncN = false) ∧ t.phasePort = 0 ∧ t.fbRaddr = 0 ∧
        t.fb = (if s.input.fbWe then Memory.write s.fb s.input.fbWaddr s.input.fbWdata else s.fb))

/-- R171: the state right after reset, and its outputs, whatever the configuration, the framebuffer and the inputs to
come; the framebuffer is left as it was. `State.reset` is that state for the open configuration (log entry 2) with no
byte written since power-up (log entry 4) and no inputs to come (log entry 3), which are the model's choice. -/
def Obligations.ResetValuesComplete : Prop :=
  State.reset = State.afterReset Config.params [] [] ∧
  ∀ (p : Params) (fb : List Host.Cell) (ins : List Input), ∃ s, s = State.afterReset p fb ins ∧
    s.line = 0 ∧ s.hcnt = 0 ∧ s.trigEn = false ∧ s.syncWide = false ∧ s.lpmReq = false ∧ s.row = 0 ∧ s.bidx = 8 ∧
    s.sr = 0 ∧ s.bcnt = 0 ∧ s.bdiv = 0 ∧ s.fb = fb ∧ s.params = p ∧
    (1 ≤ p.hsyncWidth → s.syncN = false) ∧ s.video = false ∧ s.phasePort = 0 ∧ s.fbRaddr = 0 ∧
    phaseOf s.line.toNat = some .lowPowerWait

/-- R140, with R46 and R47: FBWRITE changes one byte at an address up to 383 and nothing else, whatever else fires; a LOAD
of the same cycle takes the old byte. The canonical form of the framebuffer's list, `Memory.wf`, is the model's choice (log
entry 4). -/
def Obligations.FbwriteChangesOneByte : Prop :=
  ∀ s : State, Memory.wf s.fb = true →
    (∃ t, exec .fbwrite s = .next t ∧ t = { s with fb := t.fb } ∧ Memory.wf t.fb = true ∧
      ∀ a : FbAddr, Memory.read t.fb a =
        if a = s.input.fbWaddr ∧ a.toNat ≤ 383 then s.input.fbWdata else Memory.read s.fb a) ∧
    (s.fires .fbwrite = true ↔ s.input.fbWe = true) ∧
    ∃ t, step s = .next t ∧ (s.fires .load = true → t.sr = Memory.read s.fb s.fbRaddr) ∧
      ∀ a : FbAddr, Memory.read t.fb a =
        if s.input.fbWe = true ∧ a = s.input.fbWaddr ∧ a.toNat ≤ 383 then s.input.fbWdata else Memory.read s.fb a

/-- R45 and R47: from address 384 on a read gives 0x00 and a write does nothing; where the invariants hold the block
reads no such address. -/
def Obligations.NothingFromAddress384 : Prop :=
  (∀ (m : List Host.Cell) (a : FbAddr) (v : Byte), 384 ≤ a.toNat → Memory.read m a = 0 ∧ Memory.write m a v = m) ∧
  ∀ s : State, Inv s → s.fbRaddr.toNat ≤ 383

/-- R46, R53: in a cycle in which a byte is both loaded and written, the load takes the old byte, and the new byte is
there from the next cycle on. -/
def Obligations.ReadBeforeWriteInOneCycle : Prop :=
  ∀ s : State, Memory.wf s.fb = true → s.fires .load = true → s.fires .fbwrite = true →
    s.input.fbWaddr = s.fbRaddr → s.fbRaddr.toNat ≤ 383 →
    ∃ t, step s = .next t ∧ t.sr = Memory.read s.fb s.fbRaddr ∧ Memory.read t.fb s.fbRaddr = s.input.fbWdata

/-- R53, R58: a byte that is not written keeps its value through any number of cycles, resets among them. -/
def Obligations.UnwrittenByteKeepsItsValue : Prop :=
  ∀ (n : Nat) (s t : State) (a : FbAddr), (∀ i ∈ s.inputs.take n, i.fbWe = true → i.fbWaddr ≠ a) →
    run n s = .next t → Memory.read t.fb a = Memory.read s.fb a

/-- R73, and the property S3 of `95_test_vectors.md`: CLEAR is 384 cycles after which every byte reads 0x00. -/
def Obligations.ClearLeavesEveryByteDark : Prop :=
  ∀ s : State, Memory.wf s.fb = true →
    (Stimulus.clear.words s.params).length = 384 ∧
    ∃ t, runWords (Stimulus.clear.words s.params) s = .next t ∧ ∀ a : FbAddr, Memory.read t.fb a = 0

/-! ### The line timer -/

/-- R121: HCOUNT. -/
def Obligations.HcountCountsInsideALine : Prop :=
  ∀ s : State,
    (s.fires .hcount = true ↔ s.input.rst = false ∧ s.hcnt ≠ s.params.lineLast) ∧
    (s.hcnt < s.params.lineLast →
      exec .hcount s = .next { s with hcnt := s.hcnt + 1 } ∧
      (s.input.rst = false → ∃ t, step s = .next t ∧ t.hcnt = s.hcnt + 1 ∧ t.tsm = s.tsm)) ∧
    (s.params.lineWidth = 1 → s.hcnt ≤ s.params.lineLast → s.fires .hcount = false)

/-- R122: TICK. -/
def Obligations.TickEndsTheLine : Prop :=
  ∀ s : State,
    (s.fires .tick = true ↔ s.input.rst = false ∧ s.hcnt = s.params.lineLast) ∧
    (∃ t, exec .tick s = .next t ∧ t = (s.setHcnt 0).setTsm t.tsm ∧
      exec (decodeLine s.lnext) { s with hcnt := 0 } = .next t) ∧
    (s.fires .tick = true →
      (∃! l, (encodingRow l).format = .L ∧ s.fires l = true) ∧
      ∃ t u, step s = .next t ∧ exec (decodeLine s.lnext) s = .next u ∧ t.hcnt = 0 ∧ t.tsm = u.tsm)

/-- R123: the sync output is low for the selected width from the start of the line; which is the width that belongs to the
line. -/
def Obligations.SyncPulseOfEachLine : Prop :=
  (∀ s : State, s.syncN = false ↔ s.hcnt < if s.syncWide then s.params.vsyncWidth else s.params.hsyncWidth) ∧
  ∀ s : State, Inv s →
    (s.syncN = false ↔
      s.hcnt < if s.line.toNat = 247 ∨ s.line.toNat = 248 then s.params.vsyncWidth else s.params.hsyncWidth)

/-- R124: the sub-line trigger, which is true only while armed, in the one cycle `PICTURE_DELAY` of a line, and never if
that cycle is past the line. -/
def Obligations.TriggerOnceInAnActiveLine : Prop :=
  (∀ s : State, s.trig = true ↔ s.trigEn = true ∧ s.hcnt = s.params.pictureDelay) ∧
  ∀ s : State, Inv s →
    (s.trig = true ↔ s.active ∧ s.hcnt = s.params.pictureDelay) ∧
    (s.params.lineWidth ≤ s.params.pictureDelay → s.trig = false) ∧
    (s.trig = true → s.input.rst = false → ∀ t, step s = .next t → t.hcnt ≠ s.hcnt → t.trig = false)

/-! ### The timing state machine -/

/-- R91: the tick function, and that the block applies exactly it in a tick and leaves the four registers alone in every
other cycle without reset. -/
def Obligations.TickFunctionIsTheBlocks : Prop :=
  (∀ r : TsmRegs, r.line.toNat < 511 → tsmTick r =
    if r.line.toNat + 1 = 261 then ⟨0, r.trigEn, r.syncWide, true⟩
    else if r.line.toNat + 1 = 25 then ⟨25, r.trigEn, r.syncWide, false⟩
    else if r.line.toNat + 1 = 29 then ⟨29, true, r.syncWide, r.lpmReq⟩
    else if r.line.toNat + 1 = 221 then ⟨221, false, r.syncWide, r.lpmReq⟩
    else if r.line.toNat + 1 = 247 then ⟨247, r.trigEn, true, r.lpmReq⟩
    else if r.line.toNat + 1 = 249 then ⟨249, r.trigEn, false, r.lpmReq⟩
    else ⟨BitVec.ofNat 9 (r.line.toNat + 1), r.trigEn, r.syncWide, r.lpmReq⟩) ∧
  ∀ s : State, s.input.rst = false →
    ∃ t, step s = .next t ∧ t.tsm = if s.hcnt = s.params.lineLast then tsmTick s.tsm else s.tsm

/-- R81: LSTEP. -/
def Obligations.LstepCountsOn : Prop :=
  (∀ s : State, s.line.toNat < 511 →
    exec .lstep s = .next { s with line := BitVec.ofNat 9 (s.line.toNat + 1) }) ∧
  (∀ s : State,
    (s.fires .lstep = true ↔ s.input.rst = false ∧ s.hcnt = s.params.lineLast ∧
      s.line.toNat + 1 ∉ [25, 29, 221, 247, 249, 261]) ∧
    (s.fires .lstep = true → s.line.toNat ≤ 260 →
      ∃ t, step s = .next t ∧ t.line.toNat = s.line.toNat + 1 ∧ t.line.toNat ≤ 260 ∧ t.trigEn = s.trigEn ∧
        t.syncWide = s.syncWide ∧ t.lpmReq = s.lpmReq)) ∧
  ((List.range 261).filter fun n => decodeLine (n + 1) = .lstep).length = 255

/-- R82: LWAKE. -/
def Obligations.LwakeEntersPreActive : Prop :=
  ∀ s : State,
    exec .lwake s = .next { s with line := 25, lpmReq := false } ∧
    (s.fires .lwake = true ↔ s.input.rst = false ∧ s.hcnt = s.params.lineLast ∧ s.line.toNat = 24) ∧
    (s.fires .lwake = true → ∃ t, step s = .next t ∧ t.hcnt = 0 ∧ t.line = 25 ∧ t.lpmReq = false ∧
      t.trigEn = s.trigEn ∧ t.syncWide = s.syncWide ∧ t.phasePort = 1)

/-- R83: LARM; the trigger is armed for the line that this tick begins. -/
def Obligations.LarmEntersActivePicture : Prop :=
  ∀ s : State,
    exec .larm s = .next { s with line := 29, trigEn := true } ∧
    (s.fires .larm = true ↔ s.input.rst = false ∧ s.hcnt = s.params.lineLast ∧ s.line.toNat = 28) ∧
    (s.fires .larm = true → ∃ t, step s = .next t ∧ t.hcnt = 0 ∧ t.line = 29 ∧ t.trigEn = true ∧
      t.syncWide = s.syncWide ∧ t.lpmReq = s.lpmReq ∧ t.phasePort = 2 ∧
      State.trig { t with hcnt := t.params.pictureDelay } = true ∧ rowIndex t.line = 0)

/-- R84: LDISARM; no trigger on the line that it begins, and a transmission goes on. -/
def Obligations.LdisarmEntersPostActive : Prop :=
  ∀ s : State,
    exec .ldisarm s = .next { s with line := 221, trigEn := false } ∧
    (s.fires .ldisarm = true ↔ s.input.rst = false ∧ s.hcnt = s.params.lineLast ∧ s.line.toNat = 220) ∧
    (s.fires .ldisarm = true → ∃ t, step s = .next t ∧ t.hcnt = 0 ∧ t.line = 221 ∧ t.trigEn = false ∧
      t.syncWide = s.syncWide ∧ t.lpmReq = s.lpmReq ∧ t.phasePort = 3 ∧ (∀ n, State.trig { t with hcnt := n } = false) ∧
      (s.fires .load = true → t.sr = s.fbRdata ∧ t.bcnt = 8) ∧
      (s.fires .shift = true → s.fires .load = false → t.sr = s.sr <<< 1 ∧ t.bcnt = s.bcnt - 1))

/-- R85: LVSYNC; the line it begins has the extended pulse from its first cycle. -/
def Obligations.LvsyncEntersVSyncPulse : Prop :=
  ∀ s : State,
    exec .lvsync s = .next { s with line := 247, syncWide := true } ∧
    (s.fires .lvsync = true ↔ s.input.rst = false ∧ s.hcnt = s.params.lineLast ∧ s.line.toNat = 246) ∧
    (s.fires .lvsync = true → ∃ t, step s = .next t ∧ t.hcnt = 0 ∧ t.line = 247 ∧ t.syncWide = true ∧
      t.trigEn = s.trigEn ∧ t.lpmReq = s.lpmReq ∧ t.phasePort = 4 ∧ t.syncWidth = s.params.vsyncWidth)

/-- R86: LHSYNC; the line it begins has the normal pulse. -/
def Obligations.LhsyncEntersPostSync : Prop :=
  ∀ s : State,
    exec .lhsync s = .next { s with line := 249, syncWide := false } ∧
    (s.fires .lhsync = true ↔ s.input.rst = false ∧ s.hcnt = s.params.lineLast ∧ s.line.toNat = 248) ∧
    (s.fires .lhsync = true → ∃ t, step s = .next t ∧ t.hcnt = 0 ∧ t.line = 249 ∧ t.syncWide = false ∧
      t.trigEn = s.trigEn ∧ t.lpmReq = s.lpmReq ∧ t.phasePort = 5 ∧ t.syncWidth = s.params.hsyncWidth)

/-- R87: LWRAP; and no cycle without reset makes a legal line number smaller but this one. -/
def Obligations.LwrapStartsTheFrame : Prop :=
  ∀ s : State,
    exec .lwrap s = .next { s with line := 0, lpmReq := true } ∧
    (s.fires .lwrap = true ↔ s.input.rst = false ∧ s.hcnt = s.params.lineLast ∧ s.line.toNat = 260) ∧
    (s.fires .lwrap = true → ∃ t, step s = .next t ∧ t.hcnt = 0 ∧ t.line = 0 ∧ t.lpmReq = true ∧
      t.trigEn = s.trigEn ∧ t.syncWide = s.syncWide ∧ t.phasePort = 0) ∧
    (s.line.toNat ≤ 260 → s.input.rst = false → ∀ t, step s = .next t → t.line.toNat < s.line.toNat →
      s.fires .lwrap = true)

/-- R88: the frame, tick by tick from line 0, and how many of its lines each phase has. -/
def Obligations.FrameOf261Lines : Prop :=
  (∀ (n : Nat) (a b c : Bool), (tsmTicks n ⟨0, a, b, c⟩).line.toNat = n % 261) ∧
  (∀ n : Nat, phaseOf n = some .activePicture ↔ 29 ≤ n ∧ n ≤ 220) ∧
  (∀ n : Nat, phaseOf n = some .vsyncPulse ↔ n = 247 ∨ n = 248) ∧
  ([Phase.lowPowerWait, .preActive, .activePicture, .postActive, .vsyncPulse, .postSync].map fun ph =>
    ((List.range 261).filter fun n => phaseOf n = some ph).length) = [25, 4, 192, 26, 2, 12]

/-- Without a reset, cycle `k` of line `n` after reset, for any number of lines: `hcnt` as in R173, the line as in R88, the
flags of the line as in R31 (I3, I4), and `lpm_req`, which stays 0 through the first frame, as in R179. The inputs to come are
the model's list (log entry 3). -/
def Obligations.TimeLineAfterReset : Prop :=
  ∀ (p : Params) (fb : List Host.Cell) (ins : List Input) (n k : Nat), k < p.lineWidth →
    NoReset (n * p.lineWidth + k) (State.afterReset p fb ins) →
    ∃ t, run (n * p.lineWidth + k) (State.afterReset p fb ins) = .next t ∧ t.hcnt = k ∧ t.line.toNat = n % 261 ∧
      (t.trigEn = true ↔ 29 ≤ n % 261 ∧ n % 261 ≤ 220) ∧ (t.syncWide = true ↔ n % 261 = 247 ∨ n % 261 = 248) ∧
      (t.lpmReq = true ↔ 261 ≤ n ∧ n % 261 ≤ 24)

/-- I5 of R31, second part, and R142: LWRAP makes the request follow the phase, and it goes on doing so until a reset. -/
def Obligations.LowPowerRequestFollowsTheWrap : Prop :=
  ∀ s t : State, step s = .next t → s.input.rst = false → s.line.toNat ≤ 260 →
    (s.fires .lwrap = true ∨ (s.lpmReq = true ↔ s.line.toNat ≤ 24)) →
    (t.lpmReq = true ↔ t.line.toNat ≤ 24)

/-- R65: the code on the phase port, for the line numbers there are. -/
def Obligations.PhasePortByLine : Prop :=
  ∀ s : State, Inv s →
    s.phasePort = (if s.line.toNat ≤ 24 then 0 else if s.line.toNat ≤ 28 then 1 else if s.line.toNat ≤ 220 then 2
      else if s.line.toNat ≤ 246 then 3 else if s.line.toNat ≤ 248 then 4 else 5) ∧
    s.phasePort ≠ 6 ∧ s.phasePort ≠ 7

/-! ### The line serializer -/

/-- R101: START. -/
def Obligations.StartLatchesTheRow : Prop :=
  ∀ s : State,
    (∃ t, exec .start s = .next t ∧ t = { s with row := t.row, bidx := 0 } ∧
      t.row.toNat = (s.line.toNat + 512 - 29) % 512 / 4 % 64 ∧
      (s.active → t.row.toNat = (s.line.toNat - 29) / 4 ∧ t.row.toNat ≤ 47)) ∧
    (s.fires .start = true ↔
      s.input.rst = false ∧ s.trigEn = true ∧ s.hcnt = s.params.pictureDelay ∧ s.bidx = 8) ∧
    (s.fires .start = true → ∃ t, step s = .next t ∧ t.row = rowIndex s.line ∧ t.bidx = 0 ∧
      (s.bcnt = 0 → t.sr = s.sr ∧ t.bcnt = 0 ∧ t.bdiv = s.bdiv ∧ t.ready = true) ∧
      (t.input.rst = false → t.ready = true → t.fires .load = true))

/-- R102: TRIGDROP: the trigger is lost and the sequencer goes on with the row and byte it was at. -/
def Obligations.TrigdropLosesTheTrigger : Prop :=
  ∀ s : State,
    exec .trigdrop s = .next s ∧
    (s.fires .trigdrop = true ↔
      s.input.rst = false ∧ s.trigEn = true ∧ s.hcnt = s.params.pictureDelay ∧ s.bidx ≠ 8) ∧
    (s.fires .trigdrop = true → s.fires .start = false ∧ ∃ t, step s = .next t ∧ t.row = s.row ∧
      (s.fires .load = false → t.bidx = s.bidx))

/-- R103: LOAD. For a byte index of 15, which no run reaches, the sum is a free value (log entry 7). -/
def Obligations.LoadTakesTheNextByte : Prop :=
  ∀ s : State,
    (∃ t, exec .load s = .next t ∧ t = { s with sr := t.sr, bcnt := 8, bdiv := 0, bidx := t.bidx } ∧
      t.sr = Memory.read s.fb s.fbRaddr ∧ (s.bidx ≠ 15 → t.bidx = s.bidx + 1)) ∧
    s.fbRaddr.toNat = s.row.toNat * 8 + s.bidx.toNat % 8 ∧
    (s.fires .load = true ↔ s.input.rst = false ∧ s.bidx ≠ 8 ∧
      (s.bcnt = 0 ∨ (s.bcnt = 1 ∧ s.bdiv = s.params.bitLast))) ∧
    (s.fires .load = true → ∃ t, step s = .next t ∧ t.sr = Memory.read s.fb s.fbRaddr ∧ t.bcnt = 8 ∧ t.bdiv = 0 ∧
      t.row = s.row ∧ (s.bidx ≠ 15 → t.bidx = s.bidx + 1))

/-- R104: WAIT, and how long it goes on between two bytes of a row: `8 * BIT_DIV - 1` cycles. -/
def Obligations.WaitHoldsTheSequencer : Prop :=
  ∀ s : State,
    exec .wait s = .next s ∧
    (s.fires .wait = true ↔ s.input.rst = false ∧ s.bidx ≠ 8 ∧ s.bcnt ≠ 0 ∧
      (s.bcnt = 1 → s.bdiv ≠ s.params.bitLast)) ∧
    (s.fires .wait = true → ∃ t, step s = .next t ∧ t.bidx = s.bidx ∧ t.row = s.row) ∧
    (s.fires .load = true → s.bidx.toNat < 7 → ∀ m : Nat, m + 1 ≤ 8 * s.params.bitDiv → NoReset (m + 2) s →
      ∃ t, run (m + 1) s = .next t ∧ t.bidx.toNat = s.bidx.toNat + 1 ∧ t.row = s.row ∧
        (t.fires .wait = true ↔ m + 1 < 8 * s.params.bitDiv) ∧ (t.fires .load = true ↔ m + 1 = 8 * s.params.bitDiv))

/-- R105: SHIFT. -/
def Obligations.ShiftShowsTheNextBit : Prop :=
  ∀ s : State,
    (s.bcnt ≠ 0 → exec .shift s = .next { s with sr := s.sr <<< 1, bcnt := s.bcnt - 1, bdiv := 0 }) ∧
    (s.fires .shift = true ↔ s.input.rst = false ∧ s.bcnt ≠ 0 ∧ s.bdiv = s.params.bitLast) ∧
    (s.fires .shift = true → s.fires .load = false → ∃ t, step s = .next t ∧ t.sr.toNat = s.sr.toNat * 2 % 256 ∧
      t.sr.getLsbD 7 = s.sr.getLsbD 6 ∧ t.sr.getLsbD 0 = false ∧ t.bcnt.toNat = s.bcnt.toNat - 1 ∧ t.bdiv = 0 ∧
      (t.bcnt = 0 → t.video = false)) ∧
    (s.fires .shift = true → s.fires .load = true → ∃ t, step s = .next t ∧ t.sr = s.fbRdata ∧ t.bcnt = 8 ∧ t.bdiv = 0)

/-- R106: BITHOLD; a bit is on the pin for `BIT_DIV` cycles, of which all but the last end with BITHOLD. -/
def Obligations.BitholdKeepsTheBit : Prop :=
  ∀ s : State,
    (s.bdiv < s.params.bitLast → exec .bithold s = .next { s with bdiv := s.bdiv + 1 }) ∧
    (s.fires .bithold = true ↔ s.input.rst = false ∧ s.bcnt ≠ 0 ∧ s.bdiv ≠ s.params.bitLast) ∧
    (s.fires .bithold = true → s.bdiv < s.params.bitLast → ∃ t, step s = .next t ∧ t.bdiv = s.bdiv + 1 ∧
      t.sr = s.sr ∧ t.bcnt = s.bcnt ∧ t.video = s.video) ∧
    (s.params.bitDiv = 1 → s.bdiv ≤ s.params.bitLast → s.fires .bithold = false) ∧
    (s.bcnt ≠ 0 → s.bdiv = 0 → ∀ m : Nat, m < s.params.bitDiv → NoReset (m + 1) s →
      ∃ t, run m s = .next t ∧ t.bdiv = m ∧ t.sr = s.sr ∧ t.bcnt = s.bcnt ∧ t.video = s.video ∧
        (t.fires .bithold = true ↔ m + 1 < s.params.bitDiv) ∧ (t.fires .shift = true ↔ m + 1 = s.params.bitDiv))

/-- R111: LOAD over SHIFT. -/
def Obligations.LoadWinsOverShift : Prop :=
  ∀ s : State,
    (s.fires .load = true ∧ s.fires .shift = true ↔
      s.input.rst = false ∧ s.bidx ≠ 8 ∧ s.bcnt = 1 ∧ s.bdiv = s.params.bitLast) ∧
    (s.fires .load = true → s.fires .shift = true → ∃ t u, step s = .next t ∧ exec .load s = .next u ∧
      t.sr = u.sr ∧ t.bcnt = u.bcnt ∧ t.bdiv = u.bdiv) ∧
    ¬ (s.fires .load = true ∧ s.fires .bithold = true)

/-- R107: in every next state the pin is dark when the shifter is empty, and else shows the most significant bit. -/
def Obligations.VideoPinDrivenByTheShifter : Prop :=
  ∀ s t : State, step s = .next t →
    (t.bcnt = 0 → t.video = false) ∧ (t.bcnt ≠ 0 → t.video = t.sr.msb) ∧
    (s.fires .load = true → t.video = (Memory.read s.fb s.fbRaddr).msb)

/-- R109: neither a tick nor an entry action reaches the serializer: in a cycle with no trigger and no reset its next state
depends on its own registers, the configuration and the framebuffer alone. -/
def Obligations.SerializerRunsOnByItself : Prop :=
  ∀ s s' t t' : State, s.params = s'.params → SameSerializer s s' → s.fb = s'.fb →
    s.input.rst = false → s'.input.rst = false → s.trig = false → s'.trig = false →
    step s = .next t → step s' = .next t' → SameSerializer t t'

/-- R110: a shifter that holds bits becomes ready, for the first time, after exactly the cycles that are left of them. -/
def Obligations.ShifterBecomesReadyInTime : Prop :=
  ∀ (s : State) (n : Nat), 1 ≤ s.bcnt.toNat → s.bcnt.toNat ≤ 8 → s.bdiv ≤ s.params.bitLast →
    n = (s.bcnt.toNat - 1) * s.params.bitDiv + (s.params.bitLast - s.bdiv) → NoReset n s →
    n < s.bcnt.toNat * s.params.bitDiv ∧
    (∃ t, run n s = .next t ∧ t.bcnt = 1 ∧ t.bdiv = s.params.bitLast ∧ t.ready = true) ∧
    ∀ m < n, ∃ t, run m s = .next t ∧ t.ready = false

/-- R48, R107: a byte handed to the shifter is on the pin, bit 7 first, each bit for `BIT_DIV` cycles from the cycle after
its LOAD, as the byte was read in the cycle of the LOAD. -/
def Obligations.ByteOnTheWire : Prop :=
  ∀ (s : State) (j d : Nat), s.fires .load = true → j < 8 → d < s.params.bitDiv →
    NoReset (1 + j * s.params.bitDiv + d) s →
    ∃ t, run (1 + j * s.params.bitDiv + d) s = .next t ∧ t.video = (Memory.read s.fb s.fbRaddr).getLsbD (7 - j)

/-- R112: the row latched on a line is the row of the group of four lines to which the line belongs. -/
def Obligations.RowOfFourLines : Prop :=
  ∀ s t : State, Inv s → s.fires .start = true → step s = .next t →
    ∀ r : Nat, r < 48 → (t.row.toNat = r ↔ 29 + 4 * r ≤ s.line.toNat ∧ s.line.toNat ≤ 32 + 4 * r)

/-! ### Invariants -/

/-- R31, I1 to I7: kept by every step, for every configuration and whatever the application does. -/
def Obligations.EveryStepKeepsTheInvariants : Prop :=
  ∀ s t : State, Inv s → step s = .next t → Inv t

/-- R31: the invariants hold in the state after reset. -/
def Obligations.InvariantsHoldAfterReset : Prop :=
  Inv State.reset ∧ ∀ (p : Params) (fb : List Host.Cell) (ins : List Input), Inv (State.afterReset p fb ins)

/-- R31, I8, with R45: the read address is always one of the 384 bytes. -/
def Obligations.ReadAddressIsInTheFramebuffer : Prop :=
  ∀ s : State, Inv s → s.fbRaddr.toNat ≤ 383 ∧ s.fbRdata = Memory.byteAt s.fb (s.row.toNat * 8 + s.bidx.toNat % 8)

/-- The framebuffer's list stays in its one canonical form. -/
def Obligations.EveryStepKeepsTheMemoryForm : Prop :=
  Memory.wf State.reset.fb = true ∧ ∀ s t : State, Memory.wf s.fb = true → step s = .next t → Memory.wf t.fb = true

/-- R108: under a legal configuration every step keeps the serializer where its line and cycle demand it. -/
def Obligations.EveryStepKeepsTheScanPosition : Prop :=
  ∀ s t : State, ScanInv s → step s = .next t → ScanInv t

/-- Under a legal configuration the serializer is where it belongs in the state after reset. -/
def Obligations.ScanPositionHoldsAfterReset : Prop :=
  ∀ (p : Params) (fb : List Host.Cell) (ins : List Input), p.Legal → ScanInv (State.afterReset p fb ins)

/-- R31: I1 to I8 in every run from reset, and I9 to I11 in every one with a legal configuration, whatever the framebuffer
holds and whatever the application does; then the two pins show a level that R66 names. That the reserved combination of the
pins is given no level, `none`, is the model's reading (log entry 16). -/
def Obligations.RunsFromResetKeepI1ToI11 : Prop :=
  ∀ (p : Params) (fb : List Host.Cell) (ins : List Input) (n : Nat) (t : State),
    run n (State.afterReset p fb ins) = .next t →
    Inv t ∧ t.fbRaddr.toNat ≤ 383 ∧
    (∀ (m : Nat) (u : State), m < n → run m (State.afterReset p fb ins) = .next u → u.fires .lwrap = true →
      NoReset (n - m) u → (t.lpmReq = true ↔ t.line.toNat ≤ 24)) ∧
    (p.Legal → (t.hcnt = 0 → t.serializerIdle) ∧ (t.trig = true → t.serializerIdle) ∧
      (t.video = true → t.syncN = true) ∧ compositeLevel t.syncN t.video ≠ none)

/-! ### A line of the picture -/

/-- R126: where the pin is dark and where it carries pixels, under a legal configuration; and the 69 lines of vertical
blanking. -/
def Obligations.HorizontalBlanking : Prop :=
  (∀ s : State, ScanInv s →
    (¬ s.active → s.video = false) ∧
    (s.hcnt ≤ s.params.pictureDelay + 1 → s.video = false) ∧
    (s.params.pictureDelay + 2 + 64 * s.params.bitDiv ≤ s.hcnt → s.video = false) ∧
    (s.active → s.params.pictureDelay + 2 ≤ s.hcnt → s.hcnt < s.params.pictureDelay + 2 + 64 * s.params.bitDiv →
      s.shifting = true)) ∧
  (∀ n : Nat, n ≤ 260 → (phaseOf n ≠ some .activePicture ↔ n ≤ 28 ∨ 221 ≤ n)) ∧
  ((List.range 261).filter fun n => phaseOf n ≠ some .activePicture).length = 69

/-- R108: the cycles of an active line in which START, LOAD and SHIFT fire, which byte each LOAD reads, and when sequencer
and shifter are idle, under a legal configuration. -/
def Obligations.CyclePositionsOnALine : Prop :=
  ∀ s : State, ScanInv s → s.input.rst = false →
    (s.fires .start = true ↔ s.active ∧ s.hcnt = s.params.pictureDelay) ∧
    (∀ k : Nat, k < 8 → (s.fires .load = true ∧ s.bidx.toNat = k ↔
      s.active ∧ s.hcnt = s.params.pictureDelay + 1 + 8 * k * s.params.bitDiv)) ∧
    (s.fires .load = true → s.bidx.toNat < 8 ∧
      s.fbRaddr.toNat = (s.line.toNat - 29) / 4 * 8 + s.bidx.toNat) ∧
    (s.fires .shift = true ↔
      s.active ∧ ∃ b < 64, s.hcnt = s.params.pictureDelay + 1 + (b + 1) * s.params.bitDiv) ∧
    s.fires .trigdrop = false ∧
    (s.active → s.params.pictureDelay + 2 + 56 * s.params.bitDiv ≤ s.hcnt → s.bidx = 8) ∧
    (s.active → s.params.pictureDelay + 2 + 64 * s.params.bitDiv ≤ s.hcnt → s.bcnt = 0)

/-- R68: on an active line, under a legal configuration, bit period `b` carries bit `7 - (b mod 8)` of byte `b / 8` of the
row of the line, as the byte was read in the cycle of its LOAD, without a gap, which is the pixel of column `b` of that row
(R43); before and after the pin is 0. -/
def Obligations.RowOnTheWire : Prop :=
  ∀ s : State, ScanInv s → s.active → s.hcnt = 0 → NoReset s.params.lineLast s →
    (∀ b d : Nat, b < 64 → d < s.params.bitDiv →
      ∃ u t, run (s.params.pictureDelay + 1 + 8 * (b / 8) * s.params.bitDiv) s = .next u ∧ u.fires .load = true ∧
        run (s.params.pictureDelay + 2 + b * s.params.bitDiv + d) s = .next t ∧
        t.video = (Memory.byteAt u.fb ((s.line.toNat - 29) / 4 * 8 + b / 8)).getLsbD (7 - b % 8) ∧
        t.video = pixelAt u.fb b ((s.line.toNat - 29) / 4)) ∧
    (∀ c t, (c ≤ s.params.pictureDelay + 1 ∨
        s.params.pictureDelay + 2 + 64 * s.params.bitDiv ≤ c ∧ c ≤ s.params.lineLast) →
      run c s = .next t → t.video = false)

/-! ### What does not reach what -/

/-- R120, R142: the line timer and the timing state machine read nothing of the serializer, the framebuffer or the
application's writes. -/
def Obligations.TimingIgnoresThePicture : Prop :=
  ∀ s s' t t' : State, s.params = s'.params → SameTiming s s' → s.input.rst = s'.input.rst →
    step s = .next t → step s' = .next t' → SameTiming t t'

/-- R140: in the cycle of a write no register of the block changes on account of it. -/
def Obligations.WriteReachesNoRegister : Prop :=
  ∀ (s t t' : State) (i j : Input) (rest : List Input), i.rst = j.rst →
    step { s with inputs := i :: rest } = .next t → step { s with inputs := j :: rest } = .next t' →
    SameTiming t t' ∧ SameSerializer t t' ∧ t.params = t'.params
end

