-- ==== Sys2Proof/Laws/Decode.lean ====
section
/-! SUPPORT. The selection tables read bit by bit: when a control word of given bits selects each operation of format C
(the pattern column of R63). -/

namespace Sys2Proof

section
variable (r t g b y h e w : Bool)

@[simp] theorem matches_reset : matchesControl (controlBits r t g b y h e w) .reset = r := by
  revert r t g b y h e w; decide
@[simp] theorem matches_hcount : matchesControl (controlBits r t g b y h e w) .hcount = (!r && !t) := by
  revert r t g b y h e w; decide
@[simp] theorem matches_tick : matchesControl (controlBits r t g b y h e w) .tick = (!r && t) := by
  revert r t g b y h e w; decide
@[simp] theorem matches_start : matchesControl (controlBits r t g b y h e w) .start = (!r && g && !b) := by
  revert r t g b y h e w; decide
@[simp] theorem matches_trigdrop : matchesControl (controlBits r t g b y h e w) .trigdrop = (!r && g && b) := by
  revert r t g b y h e w; decide
@[simp] theorem matches_load : matchesControl (controlBits r t g b y h e w) .load = (!r && b && y) := by
  revert r t g b y h e w; decide
@[simp] theorem matches_wait : matchesControl (controlBits r t g b y h e w) .wait = (!r && b && !y) := by
  revert r t g b y h e w; decide
@[simp] theorem matches_shift : matchesControl (controlBits r t g b y h e w) .shift = (!r && h && e) := by
  revert r t g b y h e w; decide
@[simp] theorem matches_bithold : matchesControl (controlBits r t g b y h e w) .bithold = (!r && h && !e) := by
  revert r t g b y h e w; decide
@[simp] theorem matches_fbwrite : matchesControl (controlBits r t g b y h e w) .fbwrite = w := by
  revert r t g b y h e w; decide

end

/-- An operation of format C is among those a control word selects when its row matches. -/
theorem mem_decode_control {cw : ControlWord} {n : Nat} {i : Instr} (h : (encodingRow i).format = .C) :
    i ∈ decode cw n ↔ matchesControl cw i = true := by
  have hl : ∀ j, (encodingRow j).format = .L → i ≠ j := fun j hj e => by simp [e, hj] at h
  have hi : i ∈ controlOps := by revert h; cases i <;> decide
  have hd : i ≠ decodeLine n := by
    apply hl; unfold decodeLine; repeat (first | rfl | split)
  unfold decode decodeControl
  split <;> simp [hi, hd]

/-- An operation of format L fires when TICK is selected and its number is `lnext` (R64). -/
theorem mem_decode_line {cw : ControlWord} {n : Nat} {i : Instr} (h : (encodingRow i).format = .L) :
    i ∈ decode cw n ↔ matchesControl cw .tick = true ∧ decodeLine n = i := by
  have hi : i ∉ controlOps := by revert h; cases i <;> decide
  unfold decode decodeControl
  rw [List.mem_append, List.mem_filter]
  split
  · next ht =>
    simp only [hi, false_and, false_or, List.mem_singleton, ht, true_and]
    exact eq_comm
  · next ht => simp [hi, ht]

/-- The operation `lnext` selects is of format L. -/
theorem decodeLine_format (n : Nat) : (encodingRow (decodeLine n)).format = .L := by
  unfold decodeLine; repeat (first | rfl | split)

/-- `decodeLine` read backwards: which numbers select each operation of format L (R64). -/
theorem decodeLine_eq_iff (n : Nat) (i : Instr) : decodeLine n = i ↔
    n = 25 ∧ i = .lwake ∨ n = 29 ∧ i = .larm ∨ n = 221 ∧ i = .ldisarm ∨ n = 247 ∧ i = .lvsync ∨
    n = 249 ∧ i = .lhsync ∨ n = 261 ∧ i = .lwrap ∨ n ∉ [25, 29, 221, 247, 249, 261] ∧ i = .lstep := by
  unfold decodeLine
  by_cases h1 : n = 25; · simp [h1, eq_comm]
  by_cases h2 : n = 29; · simp [h2, eq_comm]
  by_cases h3 : n = 221; · simp [h3, eq_comm]
  by_cases h4 : n = 247; · simp [h4, eq_comm]
  by_cases h5 : n = 249; · simp [h5, eq_comm]
  by_cases h6 : n = 261; · simp [h6, eq_comm]
  simp [h1, h2, h3, h4, h5, h6, eq_comm]

end Sys2Proof
end

