-- ==== Sys2Proof/Laws/Fires.lean ====
section
/-! SUPPORT. When each operation fires, in terms of the conditions of R23 and of `lnext` (R63, R64). -/

namespace Sys2Proof.Machine

variable (s : State)

theorem fires_control {i : Instr} (h : (encodingRow i).format = .C) :
    s.fires i = matchesControl s.controlWord i := by
  rw [Bool.eq_iff_iff, State.fires, List.contains_iff_mem, State.firing, mem_decode_control h]

theorem fires_line {i : Instr} (h : (encodingRow i).format = .L) :
    s.fires i = (matchesControl s.controlWord .tick && decide (decodeLine s.lnext = i)) := by
  rw [Bool.eq_iff_iff, State.fires, List.contains_iff_mem, State.firing, mem_decode_line h]
  simp

theorem fires_reset : s.fires .reset = s.input.rst := by
  simp [fires_control s (i := .reset) rfl, State.controlWord]
theorem fires_hcount : s.fires .hcount = (!s.input.rst && !s.tick) := by
  simp [fires_control s (i := .hcount) rfl, State.controlWord]
theorem fires_tick : s.fires .tick = (!s.input.rst && s.tick) := by
  simp [fires_control s (i := .tick) rfl, State.controlWord]
theorem fires_start : s.fires .start = (!s.input.rst && s.trig && !s.seqBusy) := by
  simp [fires_control s (i := .start) rfl, State.controlWord]
theorem fires_trigdrop : s.fires .trigdrop = (!s.input.rst && s.trig && s.seqBusy) := by
  simp [fires_control s (i := .trigdrop) rfl, State.controlWord]
theorem fires_load : s.fires .load = (!s.input.rst && s.seqBusy && s.ready) := by
  simp [fires_control s (i := .load) rfl, State.controlWord]
theorem fires_wait : s.fires .wait = (!s.input.rst && s.seqBusy && !s.ready) := by
  simp [fires_control s (i := .wait) rfl, State.controlWord]
theorem fires_shift : s.fires .shift = (!s.input.rst && s.shifting && s.bitEnd) := by
  simp [fires_control s (i := .shift) rfl, State.controlWord]
theorem fires_bithold : s.fires .bithold = (!s.input.rst && s.shifting && !s.bitEnd) := by
  simp [fires_control s (i := .bithold) rfl, State.controlWord]
theorem fires_fbwrite : s.fires .fbwrite = s.input.fbWe := by
  simp [fires_control s (i := .fbwrite) rfl, State.controlWord]

/-- An operation of format L fires in a cycle in which TICK fires, if `lnext` selects it (R64). -/
theorem fires_line_iff {i : Instr} (h : (encodingRow i).format = .L) :
    s.fires i = (s.fires .tick && decide (decodeLine s.lnext = i)) := by
  rw [fires_line s h, fires_control s (i := .tick) rfl]

/-- The shifter cannot be ready in the middle of a bit: LOAD and BITHOLD never fire together (R111). -/
theorem ready_shifting_bitEnd (hr : s.ready = true) (hs : s.shifting = true) : s.bitEnd = true := by
  simp only [State.ready, State.shifting, Bool.or_eq_true, Bool.and_eq_true, beq_iff_eq, bne_iff_ne] at hr hs
  rcases hr with h | ⟨_, h⟩
  · exact absurd h hs
  · exact h

end Sys2Proof.Machine
end

