-- ==== Sys2Proof/Laws/Memory.lean ====
section
/-! SUPPORT. The framebuffer: a read after a write, a write elsewhere, and the canonical form of the list. -/

namespace Sys2Proof.Machine

theorem Memory.wfFrom_cons {lo b : Nat} {w : Byte} {m : List Host.Cell} :
    Memory.wfFrom lo ((b, w) :: m) = true ↔
      lo ≤ b ∧ b < Config.fbBytes ∧ w ≠ Config.powerUp b ∧ Memory.wfFrom (b + 1) m = true := by
  simp [Memory.wfFrom, and_assoc]

theorem Memory.wfFrom_mono {lo lo' : Nat} {m : List Host.Cell} (h : lo ≤ lo')
    (hw : Memory.wfFrom lo' m = true) : Memory.wfFrom lo m = true := by
  match m with
  | [] => rfl
  | (b, w) :: m =>
    obtain ⟨h1, h2⟩ := Memory.wfFrom_cons.mp hw
    exact Memory.wfFrom_cons.mpr ⟨by omega, h2⟩

theorem Memory.byteAt_below {lo a : Nat} {m : List Host.Cell} (h : a < lo) (hw : Memory.wfFrom lo m = true) :
    Memory.byteAt m a = Config.powerUp a := by
  induction m generalizing lo with
  | nil => rfl
  | cons c m ih =>
    obtain ⟨b, w⟩ := c
    obtain ⟨h1, _, _, h2⟩ := Memory.wfFrom_cons.mp hw
    simp only [Memory.byteAt, if_neg (show a ≠ b by omega)]
    exact ih (by omega) h2

theorem Memory.byteAt_put_same {lo : Nat} {m : List Host.Cell} (hw : Memory.wfFrom lo m = true) (a : Nat) (v : Byte) :
    Memory.byteAt (Memory.put m a v) a = v := by
  induction m generalizing lo with
  | nil => by_cases hv : v = Config.powerUp a <;> simp [Memory.put, Memory.byteAt, hv]
  | cons c m ih =>
    obtain ⟨b, w⟩ := c
    obtain ⟨_, _, _, h2⟩ := Memory.wfFrom_cons.mp hw
    rcases Nat.lt_trichotomy a b with hab | hab | hab
    · by_cases hv : v = Config.powerUp a
      · subst hv
        simp only [Memory.put, if_pos hab, if_true, Memory.byteAt, if_neg (show a ≠ b by omega)]
        exact Memory.byteAt_below (show a < b + 1 by omega) h2
      · simp [Memory.put, hab, hv, Memory.byteAt]
    · subst hab
      by_cases hv : v = Config.powerUp a
      · simp only [Memory.put, if_neg (Nat.lt_irrefl a), if_true, hv]
        exact Memory.byteAt_below (Nat.lt_succ_self a) h2
      · simp [Memory.put, hv, Memory.byteAt]
    · simp only [Memory.put, if_neg (show ¬ a < b by omega), if_neg (show a ≠ b by omega), Memory.byteAt]
      exact ih h2

theorem Memory.byteAt_put_other (m : List Host.Cell) {a x : Nat} (v : Byte) (h : x ≠ a) :
    Memory.byteAt (Memory.put m a v) x = Memory.byteAt m x := by
  induction m with
  | nil => by_cases hv : v = Config.powerUp a <;> simp [Memory.put, Memory.byteAt, hv, h]
  | cons c m ih =>
    obtain ⟨b, w⟩ := c
    rcases Nat.lt_trichotomy a b with hab | hab | hab
    · by_cases hv : v = Config.powerUp a <;> simp [Memory.put, hab, hv, Memory.byteAt, h]
    · subst hab
      by_cases hv : v = Config.powerUp a <;> simp [Memory.put, hv, Memory.byteAt, h]
    · simp only [Memory.put, if_neg (show ¬ a < b by omega), if_neg (show a ≠ b by omega), Memory.byteAt, ih]

theorem Memory.wfFrom_put {lo a : Nat} {m : List Host.Cell} (v : Byte) (h : lo ≤ a) (ha : a < Config.fbBytes)
    (hw : Memory.wfFrom lo m = true) : Memory.wfFrom lo (Memory.put m a v) = true := by
  induction m generalizing lo with
  | nil =>
    by_cases hv : v = Config.powerUp a
    · simp [Memory.put, hv, Memory.wfFrom]
    · simp [Memory.put, hv, Memory.wfFrom, h, ha]
  | cons c m ih =>
    obtain ⟨b, w⟩ := c
    obtain ⟨h1, h2, h3, h4⟩ := Memory.wfFrom_cons.mp hw
    rcases Nat.lt_trichotomy a b with hab | hab | hab
    · by_cases hv : v = Config.powerUp a
      · simpa only [Memory.put, if_pos hab, if_pos hv] using hw
      · simp only [Memory.put, if_pos hab, if_neg hv]
        exact Memory.wfFrom_cons.mpr ⟨h, ha, hv, Memory.wfFrom_cons.mpr ⟨hab, h2, h3, h4⟩⟩
    · subst hab
      by_cases hv : v = Config.powerUp a
      · simp only [Memory.put, if_neg (Nat.lt_irrefl a), if_true, if_pos hv]
        exact Memory.wfFrom_mono (by omega) h4
      · simp only [Memory.put, if_neg (Nat.lt_irrefl a), if_true, if_neg hv]
        exact Memory.wfFrom_cons.mpr ⟨h, ha, hv, h4⟩
    · simp only [Memory.put, if_neg (show ¬ a < b by omega), if_neg (show a ≠ b by omega)]
      exact Memory.wfFrom_cons.mpr ⟨h1, h2, h3, ih hab h4⟩

/-- Every write keeps the canonical form. -/
theorem Memory.wf_write {m : List Host.Cell} (h : Memory.wf m = true) (a : FbAddr) (v : Byte) :
    Memory.wf (Memory.write m a v) = true := by
  unfold Memory.write
  split
  · next ha => exact Memory.wfFrom_put v (Nat.zero_le _) ha h
  · exact h

theorem Memory.read_write_same {m : List Host.Cell} (h : Memory.wf m = true) {a : FbAddr} (v : Byte)
    (ha : a.toNat < Config.fbBytes) : Memory.read (Memory.write m a v) a = v := by
  simp only [Memory.read, Memory.write, if_pos ha]
  exact Memory.byteAt_put_same h _ v

theorem Memory.read_write_other (m : List Host.Cell) {a x : FbAddr} (v : Byte) (h : x ≠ a) :
    Memory.read (Memory.write m a v) x = Memory.read m x := by
  unfold Memory.read Memory.write
  split
  · split
    · exact Memory.byteAt_put_other m v fun e => h (BitVec.eq_of_toNat_eq e)
    · rfl
  · rfl

/-- Nothing is written from address 384 on (R47). -/
theorem Memory.write_high (m : List Host.Cell) {a : FbAddr} (v : Byte) (ha : Config.fbBytes ≤ a.toNat) :
    Memory.write m a v = m := if_neg (by omega)

/-- From address 384 on a read gives 0x00 (R45). -/
theorem Memory.read_high (m : List Host.Cell) {a : FbAddr} (ha : Config.fbBytes ≤ a.toNat) : Memory.read m a = 0 :=
  if_neg (by omega)

end Sys2Proof.Machine
end

