-- ==== Sys2Proof/Laws/State.lean ====
section
/-! SUPPORT. What each register update does to each field, one lemma per field per update. -/

namespace Sys2Proof.Machine

variable (s : State)

@[simp] theorem setHcnt_params (n : Nat) : (s.setHcnt n).params = s.params := rfl
@[simp] theorem setHcnt_hcnt (n : Nat) : (s.setHcnt n).hcnt = n := rfl
@[simp] theorem setHcnt_line (n : Nat) : (s.setHcnt n).line = s.line := rfl
@[simp] theorem setHcnt_trigEn (n : Nat) : (s.setHcnt n).trigEn = s.trigEn := rfl
@[simp] theorem setHcnt_syncWide (n : Nat) : (s.setHcnt n).syncWide = s.syncWide := rfl
@[simp] theorem setHcnt_lpmReq (n : Nat) : (s.setHcnt n).lpmReq = s.lpmReq := rfl
@[simp] theorem setHcnt_row (n : Nat) : (s.setHcnt n).row = s.row := rfl
@[simp] theorem setHcnt_bidx (n : Nat) : (s.setHcnt n).bidx = s.bidx := rfl
@[simp] theorem setHcnt_sr (n : Nat) : (s.setHcnt n).sr = s.sr := rfl
@[simp] theorem setHcnt_bcnt (n : Nat) : (s.setHcnt n).bcnt = s.bcnt := rfl
@[simp] theorem setHcnt_bdiv (n : Nat) : (s.setHcnt n).bdiv = s.bdiv := rfl
@[simp] theorem setHcnt_fb (n : Nat) : (s.setHcnt n).fb = s.fb := rfl
@[simp] theorem setHcnt_inputs (n : Nat) : (s.setHcnt n).inputs = s.inputs := rfl

@[simp] theorem setLine_params (l : LineNum) : (s.setLine l).params = s.params := rfl
@[simp] theorem setLine_hcnt (l : LineNum) : (s.setLine l).hcnt = s.hcnt := rfl
@[simp] theorem setLine_line (l : LineNum) : (s.setLine l).line = l := rfl
@[simp] theorem setLine_trigEn (l : LineNum) : (s.setLine l).trigEn = s.trigEn := rfl
@[simp] theorem setLine_syncWide (l : LineNum) : (s.setLine l).syncWide = s.syncWide := rfl
@[simp] theorem setLine_lpmReq (l : LineNum) : (s.setLine l).lpmReq = s.lpmReq := rfl
@[simp] theorem setLine_row (l : LineNum) : (s.setLine l).row = s.row := rfl
@[simp] theorem setLine_bidx (l : LineNum) : (s.setLine l).bidx = s.bidx := rfl
@[simp] theorem setLine_sr (l : LineNum) : (s.setLine l).sr = s.sr := rfl
@[simp] theorem setLine_bcnt (l : LineNum) : (s.setLine l).bcnt = s.bcnt := rfl
@[simp] theorem setLine_bdiv (l : LineNum) : (s.setLine l).bdiv = s.bdiv := rfl
@[simp] theorem setLine_fb (l : LineNum) : (s.setLine l).fb = s.fb := rfl
@[simp] theorem setLine_inputs (l : LineNum) : (s.setLine l).inputs = s.inputs := rfl

@[simp] theorem setTrigEn_params (b : Bool) : (s.setTrigEn b).params = s.params := rfl
@[simp] theorem setTrigEn_hcnt (b : Bool) : (s.setTrigEn b).hcnt = s.hcnt := rfl
@[simp] theorem setTrigEn_line (b : Bool) : (s.setTrigEn b).line = s.line := rfl
@[simp] theorem setTrigEn_trigEn (b : Bool) : (s.setTrigEn b).trigEn = b := rfl
@[simp] theorem setTrigEn_syncWide (b : Bool) : (s.setTrigEn b).syncWide = s.syncWide := rfl
@[simp] theorem setTrigEn_lpmReq (b : Bool) : (s.setTrigEn b).lpmReq = s.lpmReq := rfl
@[simp] theorem setTrigEn_row (b : Bool) : (s.setTrigEn b).row = s.row := rfl
@[simp] theorem setTrigEn_bidx (b : Bool) : (s.setTrigEn b).bidx = s.bidx := rfl
@[simp] theorem setTrigEn_sr (b : Bool) : (s.setTrigEn b).sr = s.sr := rfl
@[simp] theorem setTrigEn_bcnt (b : Bool) : (s.setTrigEn b).bcnt = s.bcnt := rfl
@[simp] theorem setTrigEn_bdiv (b : Bool) : (s.setTrigEn b).bdiv = s.bdiv := rfl
@[simp] theorem setTrigEn_fb (b : Bool) : (s.setTrigEn b).fb = s.fb := rfl
@[simp] theorem setTrigEn_inputs (b : Bool) : (s.setTrigEn b).inputs = s.inputs := rfl

@[simp] theorem setSyncWide_params (b : Bool) : (s.setSyncWide b).params = s.params := rfl
@[simp] theorem setSyncWide_hcnt (b : Bool) : (s.setSyncWide b).hcnt = s.hcnt := rfl
@[simp] theorem setSyncWide_line (b : Bool) : (s.setSyncWide b).line = s.line := rfl
@[simp] theorem setSyncWide_trigEn (b : Bool) : (s.setSyncWide b).trigEn = s.trigEn := rfl
@[simp] theorem setSyncWide_syncWide (b : Bool) : (s.setSyncWide b).syncWide = b := rfl
@[simp] theorem setSyncWide_lpmReq (b : Bool) : (s.setSyncWide b).lpmReq = s.lpmReq := rfl
@[simp] theorem setSyncWide_row (b : Bool) : (s.setSyncWide b).row = s.row := rfl
@[simp] theorem setSyncWide_bidx (b : Bool) : (s.setSyncWide b).bidx = s.bidx := rfl
@[simp] theorem setSyncWide_sr (b : Bool) : (s.setSyncWide b).sr = s.sr := rfl
@[simp] theorem setSyncWide_bcnt (b : Bool) : (s.setSyncWide b).bcnt = s.bcnt := rfl
@[simp] theorem setSyncWide_bdiv (b : Bool) : (s.setSyncWide b).bdiv = s.bdiv := rfl
@[simp] theorem setSyncWide_fb (b : Bool) : (s.setSyncWide b).fb = s.fb := rfl
@[simp] theorem setSyncWide_inputs (b : Bool) : (s.setSyncWide b).inputs = s.inputs := rfl

@[simp] theorem setLpmReq_params (b : Bool) : (s.setLpmReq b).params = s.params := rfl
@[simp] theorem setLpmReq_hcnt (b : Bool) : (s.setLpmReq b).hcnt = s.hcnt := rfl
@[simp] theorem setLpmReq_line (b : Bool) : (s.setLpmReq b).line = s.line := rfl
@[simp] theorem setLpmReq_trigEn (b : Bool) : (s.setLpmReq b).trigEn = s.trigEn := rfl
@[simp] theorem setLpmReq_syncWide (b : Bool) : (s.setLpmReq b).syncWide = s.syncWide := rfl
@[simp] theorem setLpmReq_lpmReq (b : Bool) : (s.setLpmReq b).lpmReq = b := rfl
@[simp] theorem setLpmReq_row (b : Bool) : (s.setLpmReq b).row = s.row := rfl
@[simp] theorem setLpmReq_bidx (b : Bool) : (s.setLpmReq b).bidx = s.bidx := rfl
@[simp] theorem setLpmReq_sr (b : Bool) : (s.setLpmReq b).sr = s.sr := rfl
@[simp] theorem setLpmReq_bcnt (b : Bool) : (s.setLpmReq b).bcnt = s.bcnt := rfl
@[simp] theorem setLpmReq_bdiv (b : Bool) : (s.setLpmReq b).bdiv = s.bdiv := rfl
@[simp] theorem setLpmReq_fb (b : Bool) : (s.setLpmReq b).fb = s.fb := rfl
@[simp] theorem setLpmReq_inputs (b : Bool) : (s.setLpmReq b).inputs = s.inputs := rfl

@[simp] theorem setRow_params (r : RowIdx) : (s.setRow r).params = s.params := rfl
@[simp] theorem setRow_hcnt (r : RowIdx) : (s.setRow r).hcnt = s.hcnt := rfl
@[simp] theorem setRow_line (r : RowIdx) : (s.setRow r).line = s.line := rfl
@[simp] theorem setRow_trigEn (r : RowIdx) : (s.setRow r).trigEn = s.trigEn := rfl
@[simp] theorem setRow_syncWide (r : RowIdx) : (s.setRow r).syncWide = s.syncWide := rfl
@[simp] theorem setRow_lpmReq (r : RowIdx) : (s.setRow r).lpmReq = s.lpmReq := rfl
@[simp] theorem setRow_row (r : RowIdx) : (s.setRow r).row = r := rfl
@[simp] theorem setRow_bidx (r : RowIdx) : (s.setRow r).bidx = s.bidx := rfl
@[simp] theorem setRow_sr (r : RowIdx) : (s.setRow r).sr = s.sr := rfl
@[simp] theorem setRow_bcnt (r : RowIdx) : (s.setRow r).bcnt = s.bcnt := rfl
@[simp] theorem setRow_bdiv (r : RowIdx) : (s.setRow r).bdiv = s.bdiv := rfl
@[simp] theorem setRow_fb (r : RowIdx) : (s.setRow r).fb = s.fb := rfl
@[simp] theorem setRow_inputs (r : RowIdx) : (s.setRow r).inputs = s.inputs := rfl

@[simp] theorem setBidx_params (b : Count) : (s.setBidx b).params = s.params := rfl
@[simp] theorem setBidx_hcnt (b : Count) : (s.setBidx b).hcnt = s.hcnt := rfl
@[simp] theorem setBidx_line (b : Count) : (s.setBidx b).line = s.line := rfl
@[simp] theorem setBidx_trigEn (b : Count) : (s.setBidx b).trigEn = s.trigEn := rfl
@[simp] theorem setBidx_syncWide (b : Count) : (s.setBidx b).syncWide = s.syncWide := rfl
@[simp] theorem setBidx_lpmReq (b : Count) : (s.setBidx b).lpmReq = s.lpmReq := rfl
@[simp] theorem setBidx_row (b : Count) : (s.setBidx b).row = s.row := rfl
@[simp] theorem setBidx_bidx (b : Count) : (s.setBidx b).bidx = b := rfl
@[simp] theorem setBidx_sr (b : Count) : (s.setBidx b).sr = s.sr := rfl
@[simp] theorem setBidx_bcnt (b : Count) : (s.setBidx b).bcnt = s.bcnt := rfl
@[simp] theorem setBidx_bdiv (b : Count) : (s.setBidx b).bdiv = s.bdiv := rfl
@[simp] theorem setBidx_fb (b : Count) : (s.setBidx b).fb = s.fb := rfl
@[simp] theorem setBidx_inputs (b : Count) : (s.setBidx b).inputs = s.inputs := rfl

@[simp] theorem setShifter_params (v : Byte) (c : Count) (n : Nat) : (s.setShifter v c n).params = s.params := rfl
@[simp] theorem setShifter_hcnt (v : Byte) (c : Count) (n : Nat) : (s.setShifter v c n).hcnt = s.hcnt := rfl
@[simp] theorem setShifter_line (v : Byte) (c : Count) (n : Nat) : (s.setShifter v c n).line = s.line := rfl
@[simp] theorem setShifter_trigEn (v : Byte) (c : Count) (n : Nat) : (s.setShifter v c n).trigEn = s.trigEn := rfl
@[simp] theorem setShifter_syncWide (v : Byte) (c : Count) (n : Nat) : (s.setShifter v c n).syncWide = s.syncWide := rfl
@[simp] theorem setShifter_lpmReq (v : Byte) (c : Count) (n : Nat) : (s.setShifter v c n).lpmReq = s.lpmReq := rfl
@[simp] theorem setShifter_row (v : Byte) (c : Count) (n : Nat) : (s.setShifter v c n).row = s.row := rfl
@[simp] theorem setShifter_bidx (v : Byte) (c : Count) (n : Nat) : (s.setShifter v c n).bidx = s.bidx := rfl
@[simp] theorem setShifter_sr (v : Byte) (c : Count) (n : Nat) : (s.setShifter v c n).sr = v := rfl
@[simp] theorem setShifter_bcnt (v : Byte) (c : Count) (n : Nat) : (s.setShifter v c n).bcnt = c := rfl
@[simp] theorem setShifter_bdiv (v : Byte) (c : Count) (n : Nat) : (s.setShifter v c n).bdiv = n := rfl
@[simp] theorem setShifter_fb (v : Byte) (c : Count) (n : Nat) : (s.setShifter v c n).fb = s.fb := rfl
@[simp] theorem setShifter_inputs (v : Byte) (c : Count) (n : Nat) : (s.setShifter v c n).inputs = s.inputs := rfl

@[simp] theorem setBdiv_params (n : Nat) : (s.setBdiv n).params = s.params := rfl
@[simp] theorem setBdiv_hcnt (n : Nat) : (s.setBdiv n).hcnt = s.hcnt := rfl
@[simp] theorem setBdiv_line (n : Nat) : (s.setBdiv n).line = s.line := rfl
@[simp] theorem setBdiv_trigEn (n : Nat) : (s.setBdiv n).trigEn = s.trigEn := rfl
@[simp] theorem setBdiv_syncWide (n : Nat) : (s.setBdiv n).syncWide = s.syncWide := rfl
@[simp] theorem setBdiv_lpmReq (n : Nat) : (s.setBdiv n).lpmReq = s.lpmReq := rfl
@[simp] theorem setBdiv_row (n : Nat) : (s.setBdiv n).row = s.row := rfl
@[simp] theorem setBdiv_bidx (n : Nat) : (s.setBdiv n).bidx = s.bidx := rfl
@[simp] theorem setBdiv_sr (n : Nat) : (s.setBdiv n).sr = s.sr := rfl
@[simp] theorem setBdiv_bcnt (n : Nat) : (s.setBdiv n).bcnt = s.bcnt := rfl
@[simp] theorem setBdiv_bdiv (n : Nat) : (s.setBdiv n).bdiv = n := rfl
@[simp] theorem setBdiv_fb (n : Nat) : (s.setBdiv n).fb = s.fb := rfl
@[simp] theorem setBdiv_inputs (n : Nat) : (s.setBdiv n).inputs = s.inputs := rfl

@[simp] theorem setFb_params (m : List Host.Cell) : (s.setFb m).params = s.params := rfl
@[simp] theorem setFb_hcnt (m : List Host.Cell) : (s.setFb m).hcnt = s.hcnt := rfl
@[simp] theorem setFb_line (m : List Host.Cell) : (s.setFb m).line = s.line := rfl
@[simp] theorem setFb_trigEn (m : List Host.Cell) : (s.setFb m).trigEn = s.trigEn := rfl
@[simp] theorem setFb_syncWide (m : List Host.Cell) : (s.setFb m).syncWide = s.syncWide := rfl
@[simp] theorem setFb_lpmReq (m : List Host.Cell) : (s.setFb m).lpmReq = s.lpmReq := rfl
@[simp] theorem setFb_row (m : List Host.Cell) : (s.setFb m).row = s.row := rfl
@[simp] theorem setFb_bidx (m : List Host.Cell) : (s.setFb m).bidx = s.bidx := rfl
@[simp] theorem setFb_sr (m : List Host.Cell) : (s.setFb m).sr = s.sr := rfl
@[simp] theorem setFb_bcnt (m : List Host.Cell) : (s.setFb m).bcnt = s.bcnt := rfl
@[simp] theorem setFb_bdiv (m : List Host.Cell) : (s.setFb m).bdiv = s.bdiv := rfl
@[simp] theorem setFb_fb (m : List Host.Cell) : (s.setFb m).fb = m := rfl
@[simp] theorem setFb_inputs (m : List Host.Cell) : (s.setFb m).inputs = s.inputs := rfl

@[simp] theorem setTsm_params (r : TsmRegs) : (s.setTsm r).params = s.params := rfl
@[simp] theorem setTsm_hcnt (r : TsmRegs) : (s.setTsm r).hcnt = s.hcnt := rfl
@[simp] theorem setTsm_line (r : TsmRegs) : (s.setTsm r).line = r.line := rfl
@[simp] theorem setTsm_trigEn (r : TsmRegs) : (s.setTsm r).trigEn = r.trigEn := rfl
@[simp] theorem setTsm_syncWide (r : TsmRegs) : (s.setTsm r).syncWide = r.syncWide := rfl
@[simp] theorem setTsm_lpmReq (r : TsmRegs) : (s.setTsm r).lpmReq = r.lpmReq := rfl
@[simp] theorem setTsm_row (r : TsmRegs) : (s.setTsm r).row = s.row := rfl
@[simp] theorem setTsm_bidx (r : TsmRegs) : (s.setTsm r).bidx = s.bidx := rfl
@[simp] theorem setTsm_sr (r : TsmRegs) : (s.setTsm r).sr = s.sr := rfl
@[simp] theorem setTsm_bcnt (r : TsmRegs) : (s.setTsm r).bcnt = s.bcnt := rfl
@[simp] theorem setTsm_bdiv (r : TsmRegs) : (s.setTsm r).bdiv = s.bdiv := rfl
@[simp] theorem setTsm_fb (r : TsmRegs) : (s.setTsm r).fb = s.fb := rfl
@[simp] theorem setTsm_inputs (r : TsmRegs) : (s.setTsm r).inputs = s.inputs := rfl

@[simp] theorem endCycle_params : (s.endCycle).params = s.params := rfl
@[simp] theorem endCycle_hcnt : (s.endCycle).hcnt = s.hcnt := rfl
@[simp] theorem endCycle_line : (s.endCycle).line = s.line := rfl
@[simp] theorem endCycle_trigEn : (s.endCycle).trigEn = s.trigEn := rfl
@[simp] theorem endCycle_syncWide : (s.endCycle).syncWide = s.syncWide := rfl
@[simp] theorem endCycle_lpmReq : (s.endCycle).lpmReq = s.lpmReq := rfl
@[simp] theorem endCycle_row : (s.endCycle).row = s.row := rfl
@[simp] theorem endCycle_bidx : (s.endCycle).bidx = s.bidx := rfl
@[simp] theorem endCycle_sr : (s.endCycle).sr = s.sr := rfl
@[simp] theorem endCycle_bcnt : (s.endCycle).bcnt = s.bcnt := rfl
@[simp] theorem endCycle_bdiv : (s.endCycle).bdiv = s.bdiv := rfl
@[simp] theorem endCycle_fb : (s.endCycle).fb = s.fb := rfl
@[simp] theorem endCycle_inputs : (s.endCycle).inputs = s.inputs.tail := rfl

@[simp] theorem afterReset_params (p : Params) (m : List Host.Cell) (ins : List Input) :
    (State.afterReset p m ins).params = p := rfl
@[simp] theorem afterReset_hcnt (p : Params) (m : List Host.Cell) (ins : List Input) :
    (State.afterReset p m ins).hcnt = 0 := rfl
@[simp] theorem afterReset_line (p : Params) (m : List Host.Cell) (ins : List Input) :
    (State.afterReset p m ins).line = 0 := rfl
@[simp] theorem afterReset_trigEn (p : Params) (m : List Host.Cell) (ins : List Input) :
    (State.afterReset p m ins).trigEn = false := rfl
@[simp] theorem afterReset_syncWide (p : Params) (m : List Host.Cell) (ins : List Input) :
    (State.afterReset p m ins).syncWide = false := rfl
@[simp] theorem afterReset_lpmReq (p : Params) (m : List Host.Cell) (ins : List Input) :
    (State.afterReset p m ins).lpmReq = false := rfl
@[simp] theorem afterReset_row (p : Params) (m : List Host.Cell) (ins : List Input) :
    (State.afterReset p m ins).row = 0 := rfl
@[simp] theorem afterReset_bidx (p : Params) (m : List Host.Cell) (ins : List Input) :
    (State.afterReset p m ins).bidx = 8 := rfl
@[simp] theorem afterReset_sr (p : Params) (m : List Host.Cell) (ins : List Input) :
    (State.afterReset p m ins).sr = 0 := rfl
@[simp] theorem afterReset_bcnt (p : Params) (m : List Host.Cell) (ins : List Input) :
    (State.afterReset p m ins).bcnt = 0 := rfl
@[simp] theorem afterReset_bdiv (p : Params) (m : List Host.Cell) (ins : List Input) :
    (State.afterReset p m ins).bdiv = 0 := rfl
@[simp] theorem afterReset_fb (p : Params) (m : List Host.Cell) (ins : List Input) :
    (State.afterReset p m ins).fb = m := rfl
@[simp] theorem afterReset_inputs (p : Params) (m : List Host.Cell) (ins : List Input) :
    (State.afterReset p m ins).inputs = ins := rfl

@[simp] theorem tsm_line : s.tsm.line = s.line := rfl
@[simp] theorem tsm_trigEn : s.tsm.trigEn = s.trigEn := rfl
@[simp] theorem tsm_syncWide : s.tsm.syncWide = s.syncWide := rfl
@[simp] theorem tsm_lpmReq : s.tsm.lpmReq = s.lpmReq := rfl

end Sys2Proof.Machine
end

