-- ==== Sys2Proof/Laws/Operations.lean ====
section
/-! SUPPORT. Each shared operation once: what the small counters give, that every operation has an effect, and what an
effect is. -/

namespace Sys2Proof.Machine

theorem lt_two_pow_counterWidth (n : Nat) : n < 2 ^ counterWidth n := by
  unfold counterWidth
  split
  · next h => simp [h]
  · exact Nat.lt_log2_self

/-- `counterWidth` is the smallest such width (R10). -/
theorem counterWidth_le {n w : Nat} (h : n < 2 ^ w) : counterWidth n ≤ w := by
  unfold counterWidth
  split
  · exact Nat.zero_le w
  · next hn => exact (Nat.log2_lt hn).mpr h

theorem hcntNext_of_lt {p : Params} {n : Nat} (h : n < p.lineLast) : hcntNext p n = n + 1 :=
  Nat.mod_eq_of_lt (lt_of_le_of_lt h (lt_two_pow_counterWidth _))

theorem bdivNext_of_lt {p : Params} {n : Nat} (h : n < p.bitLast) : bdivNext p n = n + 1 :=
  if_pos (lt_of_le_of_lt h (lt_two_pow_counterWidth _))

theorem lineNext_of_ne {l : LineNum} (h : l ≠ 511) : lineNext l = l + 1 := if_neg h

theorem bidxNext_of_ne {b : Count} (h : b ≠ 15) : bidxNext b = b + 1 := if_neg h

theorem bcntPrev_of_ne {b : Count} (h : b ≠ 0) : bcntPrev b = b - 1 := if_neg h

/-- `line + 1` as a number (R90). -/
theorem lineNext_toNat {l : LineNum} (h : l.toNat < 511) : (lineNext l).toNat = l.toNat + 1 := by
  rw [lineNext_of_ne (by rintro rfl; simp at h), BitVec.toNat_add]
  simp; omega

theorem bidxNext_toNat {b : Count} (h : b.toNat < 15) : (bidxNext b).toNat = b.toNat + 1 := by
  rw [bidxNext_of_ne (by rintro rfl; simp at h), BitVec.toNat_add]
  simp; omega

theorem bcntPrev_toNat {b : Count} (h : b ≠ 0) : (bcntPrev b).toNat = b.toNat - 1 := by
  have : b.toNat ≠ 0 := fun e => h (BitVec.eq_of_toNat_eq e)
  rw [bcntPrev_of_ne h, BitVec.toNat_sub]
  have := b.isLt
  simp; omega

/-- On the active lines the latched row is `(line - 29) / 4` (R67, R101). -/
theorem rowIndex_toNat {l : LineNum} (h : 29 ≤ l.toNat) : (rowIndex l).toNat = (l.toNat - 29) / 4 % 64 := by
  have := l.isLt
  simp [rowIndex, lineOffset, BitVec.extractLsb'_toNat, BitVec.toNat_sub, Nat.shiftRight_eq_div_pow]
  omega

/-- `fb_raddr = row * 8 + bidx mod 8` (R25). -/
theorem fbAddress_toNat (r : RowIdx) (b : Count) : (fbAddress r b).toNat = r.toNat * 8 + b.toNat % 8 := by
  have h : b.toNat % 8 < 2 ^ 3 := by omega
  have he : (fbAddress r b).toNat = r.toNat <<< 3 ||| (b.extractLsb' 0 3).toNat := BitVec.toNat_append r _
  rw [he, BitVec.extractLsb'_toNat, Nat.shiftRight_zero, ← Nat.shiftLeft_add_eq_or_of_lt h, Nat.shiftLeft_eq]

/-- The line number a tick leaves (R80, R87): the next one, and 0 after 260. -/
theorem tsmTick_line {r : TsmRegs} (h : r.line.toNat ≤ 260) :
    (tsmTick r).line.toNat = (r.line.toNat + 1) % 261 := by
  unfold tsmTick
  simp only
  repeat' split
  all_goals try (simp; omega)
  rw [lineNext_toNat (by omega)]
  omega

/-- The state an operation leaves when it fires alone: its effect on `s`. -/
def effect (i : Instr) (s : State) : State :=
  match exec i s with
  | .next t => t
  | _ => s

/-- Every operation is total: it answers its effect (R150). -/
theorem exec_eq_effect (i : Instr) (s : State) : exec i s = .next (effect i s) := by cases i <;> rfl

theorem runAll_eq (s : State) (ops : List Instr) : runAll s ops = .next (ops.map fun i => (i, effect i s)) := by
  induction ops with
  | nil => rfl
  | cons i ops ih => simp [runAll, exec_eq_effect, ih]

/-- A cycle always has a next state (R150): the effects of what fires, committed by priority. -/
theorem cycle_eq (s : State) :
    cycle s = .next (commitAll s (s.firing.map fun i => (i, effect i s))).endCycle := by
  simp [cycle, runAll_eq]

end Sys2Proof.Machine
end

