-- ==== Sys2Proof/Laws/PerInstr.lean ====
section
/-! SUPPORT. Statements about every operation as syntax, one lemma per constructor. -/

namespace Sys2Proof.Laws.TableRow

/-- The match word of an operation's row, with every other bit 0, names the operation (R63, R64): the decoder reads it, the
row matches its own word, and the word has no bit outside its mask. -/
abbrev Statement (i : Instr) : Prop :=
  decodeTableWord (encodingRow i).format.tableBits (encodingRow i).pat = some i ∧
    (encodingRow i).pat &&& (encodingRow i).mask = (encodingRow i).pat

theorem reset : Statement .reset := by decide
theorem hcount : Statement .hcount := by decide
theorem tick : Statement .tick := by decide
theorem start : Statement .start := by decide
theorem trigdrop : Statement .trigdrop := by decide
theorem load : Statement .load := by decide
theorem wait : Statement .wait := by decide
theorem shift : Statement .shift := by decide
theorem bithold : Statement .bithold := by decide
theorem fbwrite : Statement .fbwrite := by decide
theorem lwake : Statement .lwake := by decide
theorem larm : Statement .larm := by decide
theorem ldisarm : Statement .ldisarm := by decide
theorem lvsync : Statement .lvsync := by decide
theorem lhsync : Statement .lhsync := by decide
theorem lwrap : Statement .lwrap := by decide
theorem lstep : Statement .lstep := by decide

end Sys2Proof.Laws.TableRow
end

