-- ==== Sys2Proof/Laws/Step.lean ====
section
/-! SUPPORT. What a step can do, said once: in a reset cycle, and in every other cycle register by register (R30). -/

namespace Sys2Proof.Machine

/-- The framebuffer after a cycle: the application's byte, if it writes one (R46). -/
def fbAfter (s : State) : List Host.Cell :=
  if s.input.fbWe then Memory.write s.fb s.input.fbWaddr s.input.fbWdata else s.fb

/-- The state after a cycle without reset, register by register. -/
def clocked (s : State) : State where
  params := s.params
  hcnt := if s.tick then 0 else hcntNext s.params s.hcnt
  line := if s.tick then (tsmTick s.tsm).line else s.line
  trigEn := if s.tick then (tsmTick s.tsm).trigEn else s.trigEn
  syncWide := if s.tick then (tsmTick s.tsm).syncWide else s.syncWide
  lpmReq := if s.tick then (tsmTick s.tsm).lpmReq else s.lpmReq
  row := if s.trig && !s.seqBusy then rowIndex s.line else s.row
  bidx := if s.trig && !s.seqBusy then 0 else if s.seqBusy && s.ready then bidxNext s.bidx else s.bidx
  sr := if s.seqBusy && s.ready then s.fbRdata else if s.shifting && s.bitEnd then s.sr <<< 1 else s.sr
  bcnt := if s.seqBusy && s.ready then 8 else if s.shifting && s.bitEnd then bcntPrev s.bcnt else s.bcnt
  bdiv := if s.seqBusy && s.ready then 0 else if s.shifting then
    (if s.bitEnd then 0 else bdivNext s.params s.bdiv) else s.bdiv
  fb := fbAfter s
  inputs := s.inputs.tail

/-- What the operation of format L that the tick selects leaves in the four registers is `tsm_tick` (R91). -/
theorem commit_decodeLine (s acc : State) (h : acc.tsm = s.tsm) :
    commit (decodeLine s.lnext) (effect (decodeLine s.lnext) s) acc = acc.setTsm (tsmTick s.tsm) := by
  have hl : acc.line = s.line := congrArg TsmRegs.line h
  have ht : acc.trigEn = s.trigEn := congrArg TsmRegs.trigEn h
  have hw : acc.syncWide = s.syncWide := congrArg TsmRegs.syncWide h
  have hq : acc.lpmReq = s.lpmReq := congrArg TsmRegs.lpmReq h
  unfold decodeLine tsmTick State.lnext
  simp only [tsm_line]
  repeat' split
  all_goals
    ext1 <;> simp [commit, effect, exec, execLwake, execLarm, execLdisarm, execLvsync, execLhsync, execLwrap, execLstep, *]

/-- The state that the operations of format C leave, given the one that the operation of format L leaves: the first of
the list that writes a register wins. -/
def commitControl (s acc : State) (ops : List Instr) : State :=
  ops.foldr (fun i a => if matchesControl s.controlWord i then commit i (effect i s) a else a) acc

theorem commitAll_firing (s : State) :
    commitAll s (s.firing.map fun i => (i, effect i s)) =
      commitControl s (if matchesControl s.controlWord .tick then s.setTsm (tsmTick s.tsm) else s) controlOps := by
  unfold commitAll commitControl State.firing decode decodeControl
  rw [List.foldr_map, List.foldr_append, List.foldr_filter]
  congr 1
  split
  · simp [commit_decodeLine s s rfl]
  · rfl

/-- In a reset cycle every register takes its reset value; the framebuffer takes the application's byte (R170). -/
theorem step_of_rst {s : State} (h : s.input.rst = true) :
    step s = .next (State.afterReset s.params (fbAfter s) s.inputs.tail) := by
  rw [step, cycle_eq, commitAll_firing]
  congr 1
  simp only [commitControl, controlOps, List.foldr, State.controlWord, matches_reset, matches_hcount, matches_tick,
    matches_start, matches_trigdrop, matches_load, matches_wait, matches_shift, matches_bithold, matches_fbwrite, h]
  cases hw : s.input.fbWe <;> ext1 <;>
    simp [commit, effect, exec, execReset, execFbwrite, fbAfter, hw]

/-- In every other cycle the registers change as `clocked` says (R30). -/
theorem step_of_not_rst {s : State} (h : s.input.rst = false) : step s = .next (clocked s) := by
  rw [step, cycle_eq, commitAll_firing]
  congr 1
  simp only [commitControl, controlOps, List.foldr, State.controlWord, matches_reset, matches_hcount, matches_tick,
    matches_start, matches_trigdrop, matches_load, matches_wait, matches_shift, matches_bithold, matches_fbwrite, h]
  have hex := ready_shifting_bitEnd s
  unfold clocked
  ext1
  case params =>
    simp only [apply_ite State.params, commit, setHcnt_params, setRow_params, setBidx_params, setShifter_params, setBdiv_params, setFb_params, setTsm_params, endCycle_params, ite_self]
  case hcnt =>
    simp only [apply_ite State.hcnt, commit, setHcnt_hcnt, setRow_hcnt, setBidx_hcnt, setShifter_hcnt, setBdiv_hcnt, setFb_hcnt, setTsm_hcnt, endCycle_hcnt, ite_self, effect, exec, execHcount, execTick]
    cases ht : s.tick <;> simp
  case line =>
    simp only [apply_ite State.line, commit, setHcnt_line, setRow_line, setBidx_line, setShifter_line, setBdiv_line, setFb_line, setTsm_line, endCycle_line, ite_self]
    cases ht : s.tick <;> simp
  case trigEn =>
    simp only [apply_ite State.trigEn, commit, setHcnt_trigEn, setRow_trigEn, setBidx_trigEn, setShifter_trigEn, setBdiv_trigEn, setFb_trigEn, setTsm_trigEn, endCycle_trigEn, ite_self]
    cases ht : s.tick <;> simp
  case syncWide =>
    simp only [apply_ite State.syncWide, commit, setHcnt_syncWide, setRow_syncWide, setBidx_syncWide, setShifter_syncWide, setBdiv_syncWide, setFb_syncWide, setTsm_syncWide, endCycle_syncWide, ite_self]
    cases ht : s.tick <;> simp
  case lpmReq =>
    simp only [apply_ite State.lpmReq, commit, setHcnt_lpmReq, setRow_lpmReq, setBidx_lpmReq, setShifter_lpmReq, setBdiv_lpmReq, setFb_lpmReq, setTsm_lpmReq, endCycle_lpmReq, ite_self]
    cases ht : s.tick <;> simp
  case row =>
    simp only [apply_ite State.row, commit, setHcnt_row, setRow_row, setBidx_row, setShifter_row, setBdiv_row, setFb_row, setTsm_row, endCycle_row, ite_self, effect, exec, execStart]
    cases hg : s.trig <;> cases hb : s.seqBusy <;> simp
  case bidx =>
    simp only [apply_ite State.bidx, commit, setHcnt_bidx, setBidx_bidx, setShifter_bidx, setBdiv_bidx, setFb_bidx, setTsm_bidx, endCycle_bidx, ite_self, effect, exec, execStart, execLoad]
    cases hg : s.trig <;> cases hb : s.seqBusy <;> cases hr : s.ready <;> simp
  case sr =>
    simp only [apply_ite State.sr, commit, setHcnt_sr, setRow_sr, setBidx_sr, setShifter_sr, setBdiv_sr, setFb_sr, setTsm_sr, endCycle_sr, ite_self, effect, exec, execLoad, execShift]
    cases hb : s.seqBusy <;> cases hr : s.ready <;> cases hh : s.shifting <;> cases he : s.bitEnd <;> simp
  case bcnt =>
    simp only [apply_ite State.bcnt, commit, setHcnt_bcnt, setRow_bcnt, setBidx_bcnt, setShifter_bcnt, setBdiv_bcnt, setFb_bcnt, setTsm_bcnt, endCycle_bcnt, ite_self, effect, exec, execLoad, execShift]
    cases hb : s.seqBusy <;> cases hr : s.ready <;> cases hh : s.shifting <;> cases he : s.bitEnd <;> simp
  case bdiv =>
    simp only [apply_ite State.bdiv, commit, setHcnt_bdiv, setRow_bdiv, setBidx_bdiv, setShifter_bdiv, setBdiv_bdiv, setFb_bdiv, setTsm_bdiv, endCycle_bdiv, ite_self, effect, exec, execLoad, execShift, execBithold]
    cases hb : s.seqBusy <;> cases hr : s.ready <;> cases hh : s.shifting <;> cases he : s.bitEnd <;> simp_all
  case fb =>
    simp only [apply_ite State.fb, commit, setHcnt_fb, setRow_fb, setBidx_fb, setShifter_fb, setBdiv_fb, setFb_fb, setTsm_fb, endCycle_fb, ite_self, effect, exec, execFbwrite]
    cases hw : s.input.fbWe <;> simp [fbAfter, hw]
  case inputs =>
    simp only [apply_ite State.inputs, commit, setHcnt_inputs, setRow_inputs, setBidx_inputs, setShifter_inputs, setBdiv_inputs, setFb_inputs, setTsm_inputs, endCycle_inputs, ite_self]

/-- What a step can do: a reset cycle, or the clocked registers. -/
theorem step_cases {s t : State} (h : step s = .next t) :
    (s.input.rst = true ∧ t = State.afterReset s.params (fbAfter s) s.inputs.tail) ∨
    (s.input.rst = false ∧ t = clocked s) := by
  cases hr : s.input.rst
  · rw [step_of_not_rst hr] at h
    cases h
    exact .inr ⟨rfl, rfl⟩
  · rw [step_of_rst hr] at h
    cases h
    exact .inl ⟨rfl, rfl⟩

/-- What the operation of format L that the tick selects leaves in its four registers (R91). -/
theorem effect_decodeLine_tsm (s : State) : (effect (decodeLine s.lnext) s).tsm = tsmTick s.tsm := by
  unfold decodeLine tsmTick State.lnext
  simp only [tsm_line]
  repeat' split
  all_goals
    simp [effect, exec, execLwake, execLarm, execLdisarm, execLvsync, execLhsync, execLwrap, execLstep, State.tsm, *]

end Sys2Proof.Machine
end

