-- ==== Sys2Proof/Laws/Run.lean ====
section
/-! SUPPORT. Runs of several cycles: one after another, the configuration kept, the inputs used up one a cycle. -/

namespace Sys2Proof.Machine

@[simp] theorem run_zero (s : State) : run 0 s = .next s := rfl

theorem run_succ {n : Nat} {s u : State} (h : step s = .next u) : run (n + 1) s = run n u := by
  have h' : Sys2Proof.core.step s = .next u := h
  simp only [run, Host.Core.run, h']
  rfl

/-- The state after one cycle. -/
def after (s : State) : State :=
  if s.input.rst then State.afterReset s.params (fbAfter s) s.inputs.tail else clocked s

theorem step_eq_after (s : State) : step s = .next (after s) := by
  unfold after
  cases h : s.input.rst
  · simpa using step_of_not_rst h
  · simpa using step_of_rst h

theorem run_total (n : Nat) (s : State) : ∃ t, run n s = .next t := by
  induction n generalizing s with
  | zero => exact ⟨s, rfl⟩
  | succ n ih => rw [run_succ (step_eq_after s)]; exact ih _

theorem run_add {m n : Nat} {s u : State} (h : run m s = .next u) : run (m + n) s = run n u := by
  induction m generalizing s with
  | zero => cases h; rw [Nat.zero_add]
  | succ m ih =>
    rw [run_succ (step_eq_after s)] at h
    rw [Nat.succ_add, run_succ (step_eq_after s), ih h]

/-- One cycle more. -/
theorem run_snoc {n : Nat} {s u t : State} (h : run n s = .next u) (ht : step u = .next t) :
    run (n + 1) s = .next t := by
  rw [run_add h, run_succ ht, run_zero]

@[simp] theorem after_params (s : State) : (after s).params = s.params := by
  unfold after; split <;> rfl

@[simp] theorem after_inputs (s : State) : (after s).inputs = s.inputs.tail := by
  unfold after; split <;> rfl

@[simp] theorem after_fb (s : State) : (after s).fb = fbAfter s := by
  unfold after; split <;> rfl

theorem run_params {n : Nat} {s t : State} (h : run n s = .next t) : t.params = s.params := by
  induction n generalizing s with
  | zero => cases h; rfl
  | succ n ih => rw [run_succ (step_eq_after s)] at h; simpa using ih h

theorem run_inputs {n : Nat} {s t : State} (h : run n s = .next t) : t.inputs = s.inputs.drop n := by
  induction n generalizing s with
  | zero => cases h; rfl
  | succ n ih => rw [run_succ (step_eq_after s)] at h; simpa using ih h

/-- Without a reset in the next cycles there is none in this one. -/
theorem NoReset.head {n : Nat} {s : State} (h : NoReset (n + 1) s) : s.input.rst = false := by
  unfold State.input
  cases hi : s.inputs with
  | nil => rfl
  | cons i rest => exact h i (by simp [hi])

theorem NoReset.tail {n : Nat} {s : State} (h : NoReset (n + 1) s) : NoReset n (after s) := by
  intro i hi
  cases hs : s.inputs with
  | nil => simp [hs] at hi
  | cons j rest =>
    simp only [after_inputs, hs, List.tail_cons] at hi
    exact h i (by simp [hs, hi])

theorem NoReset.mono {m n : Nat} {s : State} (hmn : m ≤ n) (h : NoReset n s) : NoReset m s :=
  fun i hi => h i ((List.take_prefix_take_left hmn).mem hi)

/-- After the first of some cycles without reset there is none in the others. -/
theorem NoReset.after_run {m n : Nat} {s u : State} (h : NoReset (m + n) s) (hr : run m s = .next u) : NoReset n u := by
  intro i hi
  rw [run_inputs hr] at hi
  exact h i (by rw [List.take_add]; exact List.mem_append_right _ hi)

end Sys2Proof.Machine
end

