-- ==== Sys2Proof/Tests/Slice0.lean ====
section
/-! SUPPORT. Own tests: ill-formed sets refused, words written out from the spec, the vectors of
`95_test_vectors.md` for single cycles, and for every obligation with hypotheses a witness that meets them. -/

namespace Sys2Proof.Tests

open Sys2Proof Sys2Proof.Machine

/-! ### WellFormed: one ill-formed set per check, and well-formed ones -/

theorem test_wf_oneTimer : WellFormed.oneTimer [.hcount, .tick] = false ∧ wellFormed [.hcount, .tick, .lstep] = false ∧
    wellFormed [] = false := by decide
theorem test_wf_oneTrigger : WellFormed.oneTrigger [.hcount, .start, .trigdrop] = false ∧
    wellFormed [.hcount, .start, .trigdrop] = false := by decide
theorem test_wf_oneSequencer : WellFormed.oneSequencer [.hcount, .load, .wait] = false ∧
    wellFormed [.hcount, .load, .wait] = false := by decide
theorem test_wf_oneShifter : WellFormed.oneShifter [.hcount, .shift, .bithold] = false ∧
    wellFormed [.hcount, .shift, .bithold] = false := by decide
theorem test_wf_startNeedsIdle : WellFormed.startNeedsIdle [.hcount, .start, .load] = false ∧
    wellFormed [.hcount, .start, .load] = false := by decide
theorem test_wf_dropNeedsBusy : WellFormed.dropNeedsBusy [.hcount, .trigdrop] = false ∧
    wellFormed [.hcount, .trigdrop] = false := by decide
theorem test_wf_resetAlone : WellFormed.resetAlone [.reset, .shift] = false ∧
    wellFormed [.reset, .shift] = false := by decide
theorem test_wf_oneLineOp : WellFormed.oneLineOp [.tick] = false ∧ WellFormed.oneLineOp [.hcount, .lstep] = false ∧
    wellFormed [.tick] = false ∧ wellFormed [.tick, .lwake, .lstep] = false := by decide
theorem test_wf_good : wellFormed [.hcount] = true ∧ wellFormed [.reset, .fbwrite] = true ∧
    wellFormed [.tick, .lwrap, .load, .shift] = true ∧ wellFormed [.hcount, .trigdrop, .wait, .bithold] = true := by decide

/-! ### Selection: words written out bit by bit from section 2.6 and R64 -/

/-- Line timer. -/
theorem test_decode_timer : decode 0b00001000 30 = [.hcount] ∧ decode 0b01001010 30 = [.tick, .lstep] := by decide
/-- Sequencer: START, TRIGDROP, LOAD, WAIT. -/
theorem test_decode_sequencer : decode 0b00101010 30 = [.start, .hcount] ∧
    decode 0b00110110 30 = [.trigdrop, .wait, .shift, .hcount] ∧ decode 0b00011010 30 = [.load, .hcount] ∧
    decode 0b00010110 30 = [.wait, .shift, .hcount] := by decide
/-- Shifter: SHIFT, BITHOLD. -/
theorem test_decode_shifter : decode 0b00000110 30 = [.shift, .hcount] ∧ decode 0b00000100 30 = [.bithold, .hcount] ∧
    decode 0b00001110 30 = [.shift, .hcount] ∧ decode 0b00011110 30 = [.load, .shift, .hcount] := by decide
/-- The application: FBWRITE, RESET. -/
theorem test_decode_application : decode 0b00011111 30 = [.load, .shift, .fbwrite, .hcount] ∧
    decode 0b00001011 30 = [.fbwrite, .hcount] ∧ decode 0b10010110 30 = [.reset] ∧
    decode 0b10001011 30 = [.reset, .fbwrite] := by decide
/-- Format L by its nine bits (R64). -/
theorem test_decode_line : [0b000011001, 0b000011101, 0b011011101, 0b011110111, 0b011111001, 0b100000101, 0b000000001].map
    decodeLine = [.lwake, .larm, .ldisarm, .lvsync, .lhsync, .lwrap, .lstep] := by decide
/-- Numbers beside the listed ones are LSTEP's, and 261 is not taken for 5 (C1). -/
theorem test_decode_line_neighbours : [24, 26, 28, 30, 220, 222, 246, 248, 250, 260, 262, 5, 512].map decodeLine =
    List.replicate 13 .lstep := by decide
theorem test_table_word_bits : decodeTableWord 8 256 = none ∧ decodeTableWord 16 512 = none ∧
    decodeTableWord 24 0 = none := by decide
/-- The encoder writes the spec's own control words of section 2.6. -/
theorem test_encode : encode [.hcount, .start] = (0x20, 1) ∧ encode [.hcount, .trigdrop, .wait, .shift] = (0x36, 1) ∧
    encode [.tick, .lwrap] = (0x40, 261) ∧ encode [.reset, .fbwrite] = (0x81, 1) := by decide

/-! ### A small state -/

/-- A state in the notation of `95_test_vectors.md`:
`(hcnt, line, trig_en, sync_wide, lpm_req | row, bidx, sr, bcnt, bdiv)`. -/
def mk (p : Params) (hcnt : Nat) (line : LineNum) (trigEn syncWide lpmReq : Bool) (row : RowIdx) (bidx : Count)
    (sr : Byte) (bcnt : Count) (bdiv : Nat) (fb : List Host.Cell := []) (inputs : List Input := []) : State :=
  ⟨p, hcnt, line, trigEn, syncWide, lpmReq, row, bidx, sr, bcnt, bdiv, fb, inputs⟩

/-- A state of `T80` with an idle serializer in cycle `hcnt` of a line, the flags those of the line. -/
def idle80 (hcnt : Nat) (line : LineNum) : State :=
  mk .t80 hcnt line (decide (29 ≤ line.toNat ∧ line.toNat ≤ 220)) (decide (247 ≤ line.toNat ∧ line.toNat ≤ 248)) false
    0 8 0 0 0

/-- `step` gives what `f` reads off its next state. -/
def stepGives {α : Type} [DecidableEq α] (s : State) (f : State → α) (v : α) : Bool :=
  match step s with
  | .next t => decide (f t = v)
  | .fault _ => false
  | .refused _ => false

def serOf (s : State) : RowIdx × Count × Byte × Count × Nat := (s.row, s.bidx, s.sr, s.bcnt, s.bdiv)

/-! ### Vectors of section 2.1, 2.2, 2.5 -/

/-- T1 to T4, T7, T11. -/
theorem test_tsm_first : tsmTick ⟨0, false, false, false⟩ = ⟨1, false, false, false⟩ ∧
    tsmTick ⟨23, false, false, true⟩ = ⟨24, false, false, true⟩ ∧
    tsmTick ⟨24, false, false, true⟩ = ⟨25, false, false, false⟩ ∧
    tsmTick ⟨28, false, false, false⟩ = ⟨29, true, false, false⟩ ∧
    tsmTick ⟨220, true, false, false⟩ = ⟨221, false, false, false⟩ := by decide
/-- T13, T14, T15, T16, T17. -/
theorem test_tsm_second : tsmTick ⟨246, false, false, false⟩ = ⟨247, false, true, false⟩ ∧
    tsmTick ⟨247, false, true, false⟩ = ⟨248, false, true, false⟩ ∧
    tsmTick ⟨248, false, true, false⟩ = ⟨249, false, false, false⟩ ∧
    tsmTick ⟨259, false, false, false⟩ = ⟨260, false, false, false⟩ ∧
    tsmTick ⟨260, false, false, false⟩ = ⟨0, false, false, true⟩ := by decide
/-- H1, H2. -/
theorem test_hcount : stepGives (idle80 0 100) State.hcnt 1 = true ∧ stepGives (idle80 78 100) State.hcnt 79 = true := by
  decide
/-- H3, H4: a tick with LSTEP, a tick with LWRAP. -/
theorem test_tick : stepGives (idle80 79 100) (fun t => (t.hcnt, t.line, t.lpmReq)) (0, 101, false) = true ∧
    stepGives (idle80 79 260) (fun t => (t.hcnt, t.line, t.lpmReq)) (0, 0, true) = true := by decide
/-- H5. -/
theorem test_tick_t160 : stepGives (mk .t160 159 3 false false false 0 8 0 0 0) State.hcnt 0 = true := by decide
/-- H6, X19, Z3: RESET in the last cycle of a line, in the middle of a byte. -/
theorem test_reset : step (mk .t80 79 29 true false false 5 4 0xF0 4 0 [] [⟨true, false, 0, 0⟩]) =
    .next (.afterReset .t80 [] []) := rfl
/-- H7 to H14: `sync_n`. -/
theorem test_sync : [(idle80 3 246).syncN, (idle80 4 246).syncN, (idle80 0 247).syncN, (idle80 69 247).syncN,
    (idle80 70 247).syncN, (idle80 69 248).syncN, (idle80 4 249).syncN, (idle80 0 0).syncN] =
    [false, true, false, false, true, false, true, false] := by decide
/-- The trigger in `T80` (section 2.2). -/
theorem test_trigger : [(idle80 10 29).trig, (idle80 10 28).trig, (idle80 10 221).trig, (idle80 9 29).trig,
    (idle80 11 29).trig] = [true, false, false, false, false] := by decide
/-- Section 2.7. -/
theorem test_phase : [0, 24, 25, 28, 29, 220, 221, 246, 247, 248, 249, 260].map (fun n => (phaseOf n).map phaseCode) =
    [some 0, some 0, some 1, some 1, some 2, some 2, some 3, some 3, some 4, some 4, some 5, some 5] ∧
    phaseOf 261 = none := by decide

/-! ### Vectors of section 2.3 -/

/-- L1 to L7. -/
theorem test_row : [29, 32, 33, 36, 37, 102, 124, 125, 216, 217, 220].map rowIndex =
    [0, 0, 1, 1, 2, 18, 23, 24, 46, 47, 47] := by decide
/-- L8 to L10. -/
theorem test_row_unreachable : [28, 0, 221].map rowIndex = [63, 56, 48] := by decide
/-- X2. -/
theorem test_start : stepGives (mk .t80 10 102 true false false 7 8 0 0 0) serOf (18, 0, 0, 0, 0) = true := by decide
/-- X3 and its video. -/
theorem test_load : stepGives (mk .t80 11 29 true false false 0 0 0 0 0 [(0, 0xA5)]) (fun t => (serOf t, t.video))
    ((0, 1, 0xA5, 8, 0), true) = true := by decide
/-- X7: LOAD over SHIFT, and the address. -/
theorem test_load_shift : stepGives (mk .t80 40 102 true false false 18 3 0x80 1 0 [(147, 0xA5)]) serOf
    (18, 4, 0xA5, 8, 0) = true ∧ (mk .t80 40 102 true false false 18 3 0x80 1 0).fbRaddr = 147 := by decide
/-- X4: WAIT and SHIFT. -/
theorem test_wait_shift : stepGives (mk .t80 12 29 true false false 0 1 0xA5 8 0) serOf (0, 1, 0x4A, 7, 0) = true := by
  decide
/-- X10: ready with an idle sequencer loads nothing. -/
theorem test_shift_last : stepGives (mk .t80 75 29 true false false 0 8 0 1 0) serOf (0, 8, 0, 0, 0) = true := by decide
/-- X12, X14: BITHOLD. -/
theorem test_bithold : stepGives (mk .t160 12 29 true false false 0 1 0xC1 8 0) serOf (0, 1, 0xC1, 8, 1) = true ∧
    stepGives (mk .t160 26 29 true false false 0 1 0x80 1 0) serOf (0, 1, 0x80, 1, 1) = true := by decide
/-- X17: TRIGDROP. -/
theorem test_trigdrop : stepGives (mk .x40 10 30 true false false 0 5 0xC0 2 0) serOf (0, 5, 0x80, 1, 0) = true ∧
    (mk .x40 10 30 true false false 0 5 0xC0 2 0).controlWord = 0b00110110 := by decide
/-- X18: the last pixel ends with the line. -/
theorem test_shift_tick : stepGives (mk .t76 75 29 true false false 0 8 0x80 1 0) (fun t => (serOf t, t.hcnt, t.line))
    ((0, 8, 0, 0, 0), 0, 30) = true := by decide
/-- The video pin (R107). -/
theorem test_video : [(mk .t80 0 0 false false false 0 8 0x80 0 0).video, (mk .t80 0 0 false false false 0 8 0x7F 3 0).video,
    (mk .t80 0 0 false false false 0 8 0x80 1 0).video] = [false, false, true] := by decide

/-! ### Vectors of section 2.4 -/

/-- M1, M2, with the input words of the vectors. -/
theorem test_fbwrite : Memory.read (after (mk .t80 3 0 false false false 0 8 0 0 0 [] [.ofWord 0x20034])).fb 0 = 0x34 ∧
    Memory.read (after (mk .t80 3 0 false false false 0 8 0 0 0 [] [.ofWord 0x37FFF])).fb 383 = 0xFF :=
  ⟨Memory.read_write_same (m := []) rfl 0x34 (by decide), Memory.read_write_same (m := []) rfl 0xFF (by decide)⟩
/-- M4, M5: no byte changes. -/
theorem test_fbwrite_high : stepGives (mk .t80 3 0 false false false 0 8 0 0 0 [(5, 1)] [.ofWord 0x380FF]) State.fb [(5, 1)]
    = true ∧ stepGives (mk .t80 3 0 false false false 0 8 0 0 0 [(5, 1)] [.ofWord 0x3FF01]) State.fb [(5, 1)] = true := by
  decide
/-- M6: a LOAD from address 384. -/
theorem test_load_high : stepGives (mk .t80 3 0 false false false 48 0 0xFF 0 0) State.sr 0 = true := by decide
/-- M9 and M10: the pixel mapping. -/
theorem test_pixel : pixelAt [(9, 0x80)] 8 1 = true ∧ pixelAt [(9, 0x80)] 9 1 = false ∧
    pixelAt [(383, 0x01)] 63 47 = true := by decide
/-- Input words of program P3. -/
theorem test_input_words : fbwWord 2 0xFF = 0x202FF ∧ fbwWord 400 0xFF = 0x390FF ∧
    Input.ofWord 0x60512 = ⟨true, true, 5, 0x12⟩ := by decide

/-! ### Witnesses: states that meet the hypotheses of the obligations -/

/-- An idle serializer in any cycle of any line meets the invariants. -/
theorem idle80_inv (h : Nat) (hh : h ≤ 79) (l : LineNum) (hl : l.toNat ≤ 260) : Inv (idle80 h l) :=
  ⟨hh, hl, decide_eq_true_iff, decide_eq_true_iff, fun h => (Bool.false_ne_true h).elim, Nat.le_refl 8, Nat.zero_le 8,
    Nat.zero_le _, Nat.zero_le 47, fun _ => rfl⟩

/-- A configuration written with the spec's numbers has them, and no configuration has a zero width (U7, K4). -/
theorem ofWidths_widths (l h v d b : Nat) (hl : 0 < l) (hb : 0 < b) :
    (Params.ofWidths l h v d b hl hb).lineWidth = l ∧ (Params.ofWidths l h v d b hl hb).bitDiv = b :=
  ⟨Nat.sub_add_cancel hl, Nat.sub_add_cancel hb⟩
theorem widths_pos (p : Params) : 1 ≤ p.lineWidth ∧ 1 ≤ p.bitDiv := ⟨Nat.succ_pos _, Nat.succ_pos _⟩

theorem t80_legal : Params.t80.Legal := ⟨by decide, by decide, by decide, by decide, by decide⟩
theorem t160_legal : Params.t160.Legal := ⟨by decide, by decide, by decide, by decide, by decide⟩
/-- K3 with equality. -/
theorem t76_legal : Params.t76.Legal := ⟨by decide, by decide, by decide, by decide, by decide⟩
theorem n16_legal : Params.n16.Legal := ⟨by decide, by decide, by decide, by decide, by decide⟩
theorem x40_not_legal : ¬ Params.x40.Legal := fun h => absurd h.budget (by decide)

/-- A word written in one cycle with a reset, or without. -/
def writing (s : State) (a : FbAddr) (v : Byte) (rst : Bool := false) : State :=
  { s with inputs := [⟨rst, true, a, v⟩] }

/-- X6: a state whose control word selects LOAD and SHIFT. -/
theorem wit_ControlRowsAndGroups :
    let s := mk .t80 19 29 true false false 0 1 0x80 1 0
    s.controlWord = 0b00011110 ∧ .load ∈ decode 0b00011110 30 ∧ .shift ∈ decode 0b00011110 30 := by decide

theorem wit_EncodedSelectionDecodesBack : wellFormed [.tick, .lstep, .load, .shift] = true ∧
    wellFormed [.reset, .fbwrite] = true := by decide

theorem wit_PlacedWordFiresNext : decodeTableWord 8 0x30 = some .trigdrop ∧ decodeTableWord 16 261 = some .lwrap ∧
    decodeTableWord 16 0 = some .lstep := by decide

theorem wit_LoneOperationIsTheStep : (idle80 0 0).firing = [.hcount] ∧ (idle80 79 24).firing = [.tick, .lwake] := by decide

/-- Clauses 1, 2, 6 of `SimultaneousEvents`: reset with a write; a tick with the trigger; a trigger not taken. -/
theorem wit_SimultaneousEvents_trigger :
    (writing (idle80 79 29) 5 0x12 true).input.rst = true ∧ (writing (idle80 79 29) 5 0x12 true).input.fbWe = true ∧
    (let s := mk ⟨79, 4, 70, 79, 0⟩ 79 29 true false false 0 8 0 0 0
     s.input.rst = false ∧ s.tick = true ∧ s.trig = true ∧ s.bidx = 8) ∧
    (let s := mk .x40 10 30 true false false 0 5 0xC0 2 0
     s.input.rst = false ∧ s.trig = true ∧ s.bidx ≠ 8) := by decide
/-- Clauses 3, 4, 5, 7: a tick with LOAD, a tick with SHIFT, LOAD with SHIFT, LOAD with a write to its address. -/
theorem wit_SimultaneousEvents_serializer :
    (let s := mk .x40 39 30 true false false 0 5 0xC0 0 0
     s.input.rst = false ∧ s.tick = true ∧ s.fires .load = true) ∧
    (let s := mk .t76 75 29 true false false 0 8 0x80 1 0
     s.input.rst = false ∧ s.tick = true ∧ s.fires .shift = true ∧ s.fires .load = false) ∧
    (let s := writing (mk .t80 27 29 true false false 0 2 0 1 0) 2 0xFF
     s.fires .load = true ∧ s.fires .shift = true ∧ s.fires .fbwrite = true ∧ s.input.fbWaddr = s.fbRaddr) := by decide

/-- A step, and one that changes a register of every part of the block. -/
theorem wit_RegistersChangeOnlyByTheirWriters :
    (let s := mk .t80 79 260 false false false 0 1 0x80 1 0
     step s = .next (after s) ∧ (after s).hcnt ≠ s.hcnt ∧ (after s).line ≠ s.line ∧ (after s).lpmReq ≠ s.lpmReq ∧
       (after s).bcnt ≠ s.bcnt) ∧
    (let s := mk .t160 10 33 true false false 0 8 0x80 1 0
     step s = .next (after s) ∧ (after s).row ≠ s.row ∧ (after s).bidx ≠ s.bidx ∧ (after s).bdiv ≠ s.bdiv) :=
  ⟨⟨step_eq_after _, by decide⟩, step_eq_after _, by decide⟩

theorem wit_ResetGivesEveryRegisterItsValue :
    (writing (idle80 79 29) 5 0x12 true).input.rst = true ∧ 1 ≤ (idle80 79 29).params.hsyncWidth := by decide

theorem wit_ResetValuesComplete : 1 ≤ Params.t80.hsyncWidth := by decide

theorem wit_FbwriteChangesOneByte :
    Memory.wf (writing (idle80 79 29) 383 0x12).fb = true ∧ Memory.wf (Memory.write [] 5 0x12) = true ∧
    (writing (idle80 79 29) 383 0x12).input.fbWaddr.toNat ≤ 383 :=
  ⟨rfl, Memory.wf_write rfl 5 0x12, by decide⟩

theorem wit_NothingFromAddress384 :
    (384 ≤ (384 : FbAddr).toNat ∧ 384 ≤ (511 : FbAddr).toNat) ∧ Inv (mk .t80 0 220 true false false 47 7 0 0 0) :=
  ⟨by decide, by decide, by decide, by decide, by decide, by decide, by decide, by decide, by decide, by decide, by decide⟩

/-- M7. -/
theorem wit_ReadBeforeWriteInOneCycle :
    let s := writing (mk .t80 27 29 true false false 0 2 0 1 0) 2 0xFF
    Memory.wf s.fb = true ∧ s.fires .load = true ∧ s.fires .fbwrite = true ∧ s.input.fbWaddr = s.fbRaddr ∧
      s.fbRaddr.toNat ≤ 383 := by decide

/-- Two cycles, one writing another byte. -/
theorem wit_UnwrittenByteKeepsItsValue :
    let s := writing (idle80 79 29) 5 0x12
    (∀ i ∈ s.inputs.take 2, i.fbWe = true → i.fbWaddr ≠ 6) ∧ run 2 s = .next (after (after s)) :=
  ⟨by decide, by rw [run_succ (step_eq_after _), run_succ (step_eq_after _), run_zero]⟩

theorem wit_ClearLeavesEveryByteDark : Memory.wf (Memory.write [] 5 0x12) = true := Memory.wf_write rfl 5 0x12

theorem wit_HcountCountsInsideALine :
    ((idle80 78 29).hcnt < (idle80 78 29).params.lineLast ∧ (idle80 78 29).input.rst = false) ∧
    (let s := mk (.ofWidths 1 1 1 0 1) 0 29 true false false 0 8 0 0 0
     s.params.lineWidth = 1 ∧ s.hcnt ≤ s.params.lineLast) := by decide

theorem wit_TickEndsTheLine : (idle80 79 100).fires .tick = true := by decide

/-- The boundaries of both pulse widths. -/
theorem wit_SyncPulseOfEachLine : Inv (idle80 69 247) ∧ Inv (idle80 70 248) ∧ Inv (idle80 3 246) ∧ Inv (idle80 4 249) :=
  ⟨idle80_inv _ (by decide) _ (by decide), idle80_inv _ (by decide) _ (by decide), idle80_inv _ (by decide) _ (by decide),
   idle80_inv _ (by decide) _ (by decide)⟩

/-- A delay past the line (T80 with `PICTURE_DELAY` 80). -/
def lateTrigger : State := mk ⟨79, 4, 70, 80, 0⟩ 79 29 true false false 0 8 0 0 0

theorem wit_TriggerOnceInAnActiveLine :
    (Inv (idle80 10 29) ∧ (idle80 10 29).trig = true ∧ (idle80 10 29).input.rst = false ∧
      step (idle80 10 29) = .next (after (idle80 10 29)) ∧ (after (idle80 10 29)).hcnt ≠ (idle80 10 29).hcnt) ∧
    (Inv lateTrigger ∧ lateTrigger.params.lineWidth ≤ lateTrigger.params.pictureDelay) :=
  ⟨⟨idle80_inv _ (by decide) _ (by decide), by decide, by decide, step_eq_after _, by decide⟩,
   ⟨by decide, by decide, by decide, by decide, by decide, by decide, by decide, by decide, by decide, by decide⟩, by decide⟩

theorem wit_TickFunctionIsTheBlocks : ((510 : LineNum).toNat < 511 ∧ (0 : LineNum).toNat < 511) ∧
    (idle80 79 29).input.rst = false ∧ (idle80 78 29).input.rst = false := by decide

/-- Line 0 and line 259, and the largest line number with a stated sum. -/
theorem wit_LstepCountsOn : (idle80 0 510).line.toNat < 511 ∧
    ∀ l ∈ ([0, 23, 25, 29, 219, 259] : List LineNum), (idle80 79 l).fires .lstep = true ∧ (idle80 79 l).line.toNat ≤ 260 := by
  decide

theorem wit_LwakeEntersPreActive : (idle80 79 24).fires .lwake = true := by decide
theorem wit_LarmEntersActivePicture : (idle80 79 28).fires .larm = true := by decide
/-- With a LOAD, and with a SHIFT, in the last cycle of line 220. -/
theorem wit_LdisarmEntersPostActive :
    (let s := mk .x40 39 220 true false false 47 5 0xC0 0 0
     s.fires .ldisarm = true ∧ s.fires .load = true) ∧
    (let s := mk .t76 75 220 true false false 47 8 0x80 1 0
     s.fires .ldisarm = true ∧ s.fires .shift = true ∧ s.fires .load = false) := by decide
theorem wit_LvsyncEntersVSyncPulse : (idle80 79 246).fires .lvsync = true := by decide
theorem wit_LhsyncEntersPostSync : (idle80 79 248).fires .lhsync = true := by decide
theorem wit_LwrapStartsTheFrame :
    let s := idle80 79 260
    s.fires .lwrap = true ∧ s.line.toNat ≤ 260 ∧ s.input.rst = false ∧ step s = .next (after s) ∧
      (after s).line.toNat < s.line.toNat :=
  ⟨by decide, by decide, by decide, step_eq_after _, by decide⟩

theorem wit_TimeLineAfterReset : 79 < Params.t80.lineWidth ∧
    NoReset (300 * Params.t80.lineWidth + 79) (State.afterReset .t80 [] []) := by decide

theorem wit_LowPowerRequestFollowsTheWrap :
    (let s := idle80 79 260
     step s = .next (after s) ∧ s.input.rst = false ∧ s.line.toNat ≤ 260 ∧ s.fires .lwrap = true) ∧
    (let s := mk .t80 79 24 false false true 0 8 0 0 0
     step s = .next (after s) ∧ s.input.rst = false ∧ s.line.toNat ≤ 260 ∧
       (s.lpmReq = true ↔ s.line.toNat ≤ 24)) :=
  ⟨⟨step_eq_after _, by decide⟩, step_eq_after _, by decide⟩

/-- Each phase at its last line. -/
theorem wit_PhasePortByLine : ∀ l ∈ ([24, 28, 220, 246, 248, 260] : List LineNum), Inv (idle80 0 l) :=
  fun l hl => idle80_inv 0 (by decide) l (by revert l; decide)

theorem wit_StartLatchesTheRow : (idle80 10 29).fires .start = true ∧ (idle80 10 29).bcnt = 0 ∧ (idle80 10 29).active ∧
    (idle80 10 220).active ∧ (after (idle80 10 29)).input.rst = false ∧ (after (idle80 10 29)).ready = true := by decide

theorem wit_TrigdropLosesTheTrigger :
    let s := mk .x40 10 30 true false false 0 5 0xC0 2 0
    s.fires .trigdrop = true ∧ s.fires .load = false := by decide

theorem wit_LoadTakesTheNextByte :
    let s := mk .t80 11 29 true false false 0 0 0 0 0
    s.fires .load = true ∧ s.bidx ≠ 15 := by decide

theorem wit_WaitHoldsTheSequencer : (mk .t80 12 29 true false false 0 1 0xA5 8 0).fires .wait = true ∧
    (mk .t160 26 29 true false false 0 1 0x80 1 0).fires .wait = true := by decide
/-- The first LOAD of a line, with the last cycle of the wait after it, and the LOAD of byte 6. -/
theorem wit_WaitHoldsTheSequencer_length :
    (let s := mk .t160 11 29 true false false 0 0 0 0 0
     s.fires .load = true ∧ s.bidx.toNat < 7 ∧ 15 + 1 ≤ 8 * s.params.bitDiv ∧ NoReset (15 + 2) s) ∧
    (let s := mk .t80 59 29 true false false 0 6 0x80 1 0
     s.fires .load = true ∧ s.bidx.toNat < 7 ∧ 0 + 1 ≤ 8 * s.params.bitDiv ∧ NoReset (0 + 2) s) := by decide

theorem wit_ShiftShowsTheNextBit :
    let s := mk .t80 12 29 true false false 0 1 0xA5 8 0
    s.bcnt ≠ 0 ∧ s.fires .shift = true ∧ s.fires .load = false := by decide
theorem wit_ShiftShowsTheNextBit_load :
    let s := mk .t80 19 29 true false false 0 1 0x80 1 0
    s.fires .shift = true ∧ s.fires .load = true := by decide

theorem wit_BitholdKeepsTheBit :
    (let s := mk .t160 12 29 true false false 0 1 0xC1 8 0
     s.bdiv < s.params.bitLast ∧ s.fires .bithold = true) ∧
    (let s := mk .t80 12 29 true false false 0 1 0xC1 8 0
     s.params.bitDiv = 1 ∧ s.bdiv ≤ s.params.bitLast) ∧
    (let s := mk .t160 12 29 true false false 0 1 0xC1 8 0
     s.bcnt ≠ 0 ∧ s.bdiv = 0 ∧ 1 < s.params.bitDiv ∧ NoReset (1 + 1) s) := by decide

theorem wit_LoadWinsOverShift :
    let s := mk .t80 19 29 true false false 0 1 0x80 1 0
    s.fires .load = true ∧ s.fires .shift = true := by decide

/-- The empty shifter, a shifting one, and one just loaded. -/
theorem wit_VideoPinDrivenByTheShifter :
    (let s := idle80 0 29
     step s = .next (after s) ∧ (after s).bcnt = 0) ∧
    (let s := mk .t80 12 29 true false false 0 1 0xA5 8 0
     step s = .next (after s) ∧ (after s).bcnt ≠ 0) ∧
    (let s := mk .t80 19 29 true false false 0 1 0x80 1 0
     step s = .next (after s) ∧ s.fires .load = true) :=
  ⟨⟨step_eq_after _, by decide⟩, ⟨step_eq_after _, by decide⟩, step_eq_after _, by decide⟩

/-- The same serializer in the last cycle of a line and in the middle of another. -/
theorem wit_SerializerRunsOnByItself :
    let s := mk .t80 79 220 true false false 0 1 0x80 1 0
    let s' := mk .t80 19 29 true false true 0 1 0x80 1 0
    s.params = s'.params ∧ SameSerializer s s' ∧ s.fb = s'.fb ∧ s.input.rst = false ∧ s'.input.rst = false ∧
      s.trig = false ∧ s'.trig = false ∧ step s = .next (after s) ∧ step s' = .next (after s') :=
  ⟨rfl, by decide, rfl, rfl, rfl, by decide, by decide, step_eq_after _, step_eq_after _⟩

theorem wit_ShifterBecomesReadyInTime :
    let s := mk .t160 12 29 true false false 0 1 0xC1 8 1
    1 ≤ s.bcnt.toNat ∧ s.bcnt.toNat ≤ 8 ∧ s.bdiv ≤ s.params.bitLast ∧
      14 = (s.bcnt.toNat - 1) * s.params.bitDiv + (s.params.bitLast - s.bdiv) ∧ NoReset 14 s := by decide

theorem wit_ByteOnTheWire :
    let s := mk .t160 11 29 true false false 0 0 0 0 0
    s.fires .load = true ∧ 7 < 8 ∧ 1 < s.params.bitDiv ∧ NoReset (1 + 7 * s.params.bitDiv + 1) s := by decide

theorem wit_RowOfFourLines :
    let s := idle80 10 220
    Inv s ∧ s.fires .start = true ∧ step s = .next (after s) ∧ 47 < 48 :=
  ⟨idle80_inv _ (by decide) _ (by decide), by decide, step_eq_after _, by decide⟩

theorem wit_EveryStepKeepsTheInvariants : Inv (idle80 79 260) ∧ step (idle80 79 260) = .next (after (idle80 79 260)) :=
  ⟨idle80_inv _ (by decide) _ (by decide), step_eq_after _⟩

theorem wit_ReadAddressIsInTheFramebuffer : Inv (idle80 0 260) := idle80_inv _ (by decide) _ (by decide)

theorem wit_EveryStepKeepsTheMemoryForm :
    let s := writing (idle80 79 29) 5 0x12
    Memory.wf s.fb = true ∧ step s = .next (after s) := ⟨rfl, step_eq_after _⟩

/-- R108, first case: the trigger's own cycle, nothing in progress. -/
theorem scanInv_idle : ScanInv (idle80 10 29) :=
  ⟨idle80_inv _ (by decide) _ (by decide), t80_legal, .inl (by decide)⟩

/-- R108, second case: the cycle of the first LOAD. -/
theorem scanInv_firstLoad : ScanInv (mk .t80 11 29 true false false 0 0 0 0 0) :=
  ⟨⟨by decide, by decide, by decide, by decide, by decide, by decide, by decide, by decide, by decide, by decide⟩,
    t80_legal, .inr (.inl (by decide))⟩

/-- R108, third case: the last pixel of a line of `T76`, in the last cycle of the line. -/
theorem scanInv_lastPixel : ScanInv (mk .t76 75 29 true false false 0 8 0x80 1 0) :=
  ⟨⟨by decide, by decide, by decide, by decide, by decide, by decide, by decide, by decide, by decide, by decide⟩,
    t76_legal, .inr (.inr (by decide))⟩

theorem wit_EveryStepKeepsTheScanPosition :
    ScanInv (idle80 10 29) ∧ step (idle80 10 29) = .next (after (idle80 10 29)) ∧
    (let s := mk .t76 75 29 true false false 0 8 0x80 1 0
     ScanInv s ∧ step s = .next (after s)) :=
  ⟨scanInv_idle, step_eq_after _, scanInv_lastPixel, step_eq_after _⟩

theorem wit_ScanPositionHoldsAfterReset : Params.t76.Legal ∧ Params.n16.Legal := ⟨t76_legal, n16_legal⟩

/-- The framebuffer of the run below: byte 0 holds 0x80. -/
def pixelZero : List Host.Cell := [(0, 0x80)]

/-- `T80` from reset up to the first trigger: cycle `c` is cycle `c mod 80` of line `c / 80`, the serializer idle. -/
theorem t80_run (c : Nat) (hc : c ≤ 2330) :
    ∃ u, run c (State.afterReset .t80 pixelZero []) = .next u ∧ u.params = .t80 ∧ u.fb = pixelZero ∧ u.inputs = [] ∧
      u.hcnt = c % 80 ∧ u.line.toNat = c / 80 ∧ (u.trigEn = true ↔ 29 ≤ c / 80) ∧ u.bidx = 8 ∧ u.bcnt = 0 := by
  induction c with
  | zero => exact ⟨_, rfl, rfl, rfl, rfl, rfl, rfl, by decide, rfl, rfl⟩
  | succ c ih =>
    obtain ⟨u, hr, hp, hf, hi, hh, hl, he, hb, hn⟩ := ih (by omega)
    have hs : u.input.rst = false := by simp [State.input, hi, Input.idle]
    have hw : u.input.fbWe = false := by simp [State.input, hi, Input.idle]
    have hlast : u.params.lineLast = 79 := by rw [hp]; rfl
    have hdelay : u.params.pictureDelay = 10 := by rw [hp]; rfl
    have hbusy : u.seqBusy = false := by simp [State.seqBusy, hb]
    have hshift : u.shifting = false := by simp [State.shifting, hn]
    have htrig : u.trig = false := by
      rw [Bool.eq_false_iff]
      intro h
      simp only [State.trig, Bool.and_eq_true, beq_iff_eq, he, hh, hdelay] at h
      omega
    have hser : (clocked u).bidx = 8 ∧ (clocked u).bcnt = 0 := by
      simp [clocked, hbusy, hshift, htrig, hb, hn]
    have hfb : (clocked u).fb = pixelZero := by simp [clocked, fbAfter, hw, hf]
    refine ⟨clocked u, run_snoc hr (step_of_not_rst hs), hp, hfb, by simp [clocked, hi], ?_, ?_, ?_, hser⟩
    all_goals by_cases ht : c % 80 = 79
    · have : u.tick = true := by simp [State.tick, hh, hlast, ht]
      simp only [clocked, this, if_true]
      omega
    · have : u.tick = false := by simp [State.tick, hh, hlast, ht]
      simp only [clocked, this, Bool.false_eq_true, if_false]
      rw [hcntNext_of_lt (by omega)]
      omega
    · have h : u.tick = true := by simp [State.tick, hh, hlast, ht]
      have := tsmTick_line (r := u.tsm) (by simp [hl]; omega)
      simp only [tsm_line] at this
      simp only [clocked, h, if_true]
      omega
    · have : u.tick = false := by simp [State.tick, hh, hlast, ht]
      simp only [clocked, this, Bool.false_eq_true, if_false]
      omega
    · have h : u.tick = true := by simp [State.tick, hh, hlast, ht]
      simp only [clocked, h, if_true]
      unfold tsmTick
      simp only [tsm_line, hl]
      repeat' split
      all_goals first | omega | (simp only [tsm_trigEn, he]; omega) | (simp; omega)
    · have : u.tick = false := by simp [State.tick, hh, hlast, ht]
      simp only [clocked, this, Bool.false_eq_true, if_false, he]
      omega

/-- The premises for I10 and I11 in a run from reset: the first trigger is in cycle `29 * 80 + 10` and the first
pixel two cycles later (R173, R108). -/
theorem wit_RunsFromResetKeepI1ToI11_picture :
    Params.t80.Legal ∧ ∃ u t, run 2330 (State.afterReset .t80 pixelZero []) = .next u ∧ u.trig = true ∧
      run 2332 (State.afterReset .t80 pixelZero []) = .next t ∧ t.video = true := by
  obtain ⟨u, hr, hp, hf, hi, hh, hl, he, hb, hn⟩ := t80_run 2330 (Nat.le_refl _)
  have hs : u.input.rst = false := by simp [State.input, hi, Input.idle]
  have hw : u.input.fbWe = false := by simp [State.input, hi, Input.idle]
  have htrig : u.trig = true := by simp [State.trig, he, hh, hp, Params.t80, Params.ofWidths]
  have hbusy : u.seqBusy = false := by simp [State.seqBusy, hb]
  have hshift : u.shifting = false := by simp [State.shifting, hn]
  have hrow : rowIndex u.line = 0 := BitVec.eq_of_toNat_eq (by rw [rowIndex_toNat (by omega), hl]; rfl)
  have h1 := step_of_not_rst hs
  have hi1 : (clocked u).inputs = [] := by simp [clocked, hi]
  have hs1 : (clocked u).input.rst = false := by simp [State.input, hi1, Input.idle]
  have hb1 : (clocked u).bidx = 0 := by simp [clocked, htrig, hbusy]
  have hn1 : (clocked u).bcnt = 0 := by simp [clocked, hbusy, hshift, hn]
  have hr1 : (clocked u).row = 0 := by simp [clocked, htrig, hbusy, hrow]
  have hf1 : (clocked u).fb = pixelZero := by simp [clocked, fbAfter, hw, hf]
  have hbusy1 : (clocked u).seqBusy = true := by simp [State.seqBusy, hb1]
  have hready1 : (clocked u).ready = true := by simp [State.ready, hn1]
  have hbyte : (clocked u).fbRdata = 0x80 := by
    unfold State.fbRdata State.fbRaddr
    rw [hf1, hr1, hb1]
    decide
  refine ⟨t80_legal, u, clocked (clocked u), hr, htrig, run_snoc (run_snoc hr h1) (step_of_not_rst hs1), ?_⟩
  have hsr : (clocked (clocked u)).sr = 0x80 := by rw [← hbyte]; exact if_pos (by rw [hbusy1, hready1]; rfl)
  have hbc : (clocked (clocked u)).bcnt = 8 := if_pos (by rw [hbusy1, hready1]; rfl)
  unfold State.video State.shifting
  rw [hsr, hbc]
  decide

/-- Lines of one cycle: the state that a run from reset has in cycle `n` of the first frame. -/
theorem narrow_run (n : Nat) (hn : n ≤ 260) :
    ∃ u, run n (State.afterReset (.ofWidths 1 1 1 0 1) [] []) = .next u ∧ u.params = .ofWidths 1 1 1 0 1 ∧ u.hcnt = 0 ∧
      u.inputs = [] ∧ u.line.toNat = n := by
  induction n with
  | zero => exact ⟨_, rfl, rfl, rfl, rfl, rfl⟩
  | succ n ih =>
    obtain ⟨u, hr, hp, hh, hi, hl⟩ := ih (by omega)
    have ht : u.tick = true := by simp [State.tick, hp, hh, Params.ofWidths]
    have hs : u.input.rst = false := by simp [State.input, hi, Input.idle]
    refine ⟨clocked u, run_snoc hr (step_of_not_rst hs), hp, by simp [clocked, ht], by simp [clocked, hi], ?_⟩
    have := tsmTick_line (r := u.tsm) (by simp [hl]; omega)
    simp only [clocked, ht, if_true]
    simp only [tsm_line] at this
    omega

/-- The premises for I5 after an LWRAP: one fires in cycle 260, and no reset follows. -/
theorem wit_RunsFromResetKeepI1ToI11_wrap :
    ∃ u t, 260 < 261 ∧ run 260 (State.afterReset (.ofWidths 1 1 1 0 1) [] []) = .next u ∧ u.fires .lwrap = true ∧
      NoReset (261 - 260) u ∧ run 261 (State.afterReset (.ofWidths 1 1 1 0 1) [] []) = .next t := by
  obtain ⟨u, hr, hp, hh, hi, hl⟩ := narrow_run 260 (Nat.le_refl _)
  have ht : u.tick = true := by simp [State.tick, hp, hh, Params.ofWidths]
  have hs : u.input.rst = false := by simp [State.input, hi, Input.idle]
  refine ⟨u, clocked u, by decide, hr, ?_, by simp [NoReset, hi], run_snoc hr (step_of_not_rst hs)⟩
  rw [fires_line_iff u (i := .lwrap) rfl, fires_tick, hs, ht]
  simp [State.lnext, hl, decodeLine]

/-- One cycle after reset, and its premises for I9 to I11. -/
theorem wit_RunsFromResetKeepI1ToI11 :
    run 1 (State.afterReset .t80 [] []) = .next (after (State.afterReset .t80 [] [])) ∧ Params.t80.Legal ∧
    run 0 (State.afterReset .t80 [] []) = .next (State.afterReset .t80 [] []) ∧ (State.afterReset .t80 [] []).hcnt = 0 ∧
    NoReset 1 (State.afterReset .t80 [] []) :=
  ⟨by rw [run_succ (step_eq_after _), run_zero], t80_legal, rfl, rfl, by decide⟩

theorem wit_HorizontalBlanking :
    (ScanInv (idle80 10 29) ∧ (idle80 10 29).hcnt ≤ (idle80 10 29).params.pictureDelay + 1) ∧
    (let s := mk .t76 75 29 true false false 0 8 0x80 1 0
     ScanInv s ∧ s.active ∧ s.params.pictureDelay + 2 ≤ s.hcnt ∧ s.hcnt < s.params.pictureDelay + 2 + 64 * s.params.bitDiv) ∧
    (∃ s, ScanInv s ∧ s.params.pictureDelay + 2 + 64 * s.params.bitDiv ≤ s.hcnt ∧ ¬ s.active) :=
  ⟨⟨scanInv_idle, by decide⟩, ⟨scanInv_lastPixel, by decide⟩,
    idle80 79 260, ⟨idle80_inv _ (by decide) _ (by decide), t80_legal, .inl (by decide)⟩, by decide, by decide⟩

/-- The start, the first LOAD (byte 0) and the last SHIFT of a line. -/
theorem wit_CyclePositionsOnALine :
    (ScanInv (idle80 10 29) ∧ (idle80 10 29).input.rst = false ∧ (idle80 10 29).fires .start = true) ∧
    (let s := mk .t80 11 29 true false false 0 0 0 0 0
     ScanInv s ∧ s.input.rst = false ∧ s.fires .load = true ∧ s.bidx.toNat = 0) ∧
    (let s := mk .t76 75 29 true false false 0 8 0x80 1 0
     ScanInv s ∧ s.input.rst = false ∧ s.fires .shift = true ∧ s.active) :=
  ⟨⟨scanInv_idle, by decide⟩, ⟨scanInv_firstLoad, by decide⟩, scanInv_lastPixel, by decide⟩

theorem wit_RowOnTheWire :
    ScanInv (idle80 0 29) ∧ (idle80 0 29).active ∧ (idle80 0 29).hcnt = 0 ∧
      NoReset (idle80 0 29).params.lineLast (idle80 0 29) ∧ 63 < 64 ∧ 0 < (idle80 0 29).params.bitDiv ∧
      ∃ t, run 0 (idle80 0 29) = .next t :=
  ⟨⟨idle80_inv _ (by decide) _ (by decide), t80_legal, .inl (by decide)⟩, by decide, rfl, by decide, by decide, by decide,
    _, rfl⟩

/-- The same timing registers beside a different picture. -/
theorem wit_TimingIgnoresThePicture :
    let s := idle80 79 29
    let s' := writing (mk .t80 79 29 true false false 3 5 0xFF 4 0) 7 0xFF
    s.params = s'.params ∧ SameTiming s s' ∧ s.input.rst = s'.input.rst ∧ step s = .next (after s) ∧
      step s' = .next (after s') :=
  ⟨rfl, by decide, rfl, step_eq_after _, step_eq_after _⟩

theorem wit_WriteReachesNoRegister :
    let s := idle80 79 29
    let i : Input := ⟨false, true, 7, 0xFF⟩
    i.rst = Input.idle.rst ∧ step { s with inputs := i :: [] } = .next (after { s with inputs := i :: [] }) ∧
      step { s with inputs := Input.idle :: [] } = .next (after { s with inputs := Input.idle :: [] }) :=
  ⟨rfl, step_eq_after _, step_eq_after _⟩

end Sys2Proof.Tests
end

section
/-! PROOFS. R31 and R108: every step keeps the invariants I1 to I7 and, under a legal configuration, the position of the
serializer in the line. Both are proved of `clocked`, the state after a cycle without reset, and of `State.afterReset`. -/

namespace Sys2Proof.Machine

/-! ### The conditions of R23 as facts about the registers -/

section Conditions

variable {s : State}

theorem tick_iff : s.tick = true ↔ s.hcnt = s.params.lineLast := by simp [State.tick]

theorem trig_iff : s.trig = true ↔ s.trigEn = true ∧ s.hcnt = s.params.pictureDelay := by simp [State.trig]

theorem seqBusy_iff : s.seqBusy = true ↔ s.bidx ≠ 8 := by simp [State.seqBusy]

theorem bitEnd_iff : s.bitEnd = true ↔ s.bdiv = s.params.bitLast := by simp [State.bitEnd]

theorem ready_iff : s.ready = true ↔ s.bcnt = 0 ∨ s.bcnt = 1 ∧ s.bdiv = s.params.bitLast := by
  simp [State.ready, State.bitEnd]

theorem shifting_iff : s.shifting = true ↔ s.bcnt ≠ 0 := by simp [State.shifting]

end Conditions

/-! ### The timing state machine: `tsm_tick` flag by flag, and what it keeps of I2 to I5 -/

theorem tsmTick_trigEn (r : TsmRegs) : (tsmTick r).trigEn =
    if r.line.toNat + 1 = 29 then true else if r.line.toNat + 1 = 221 then false else r.trigEn := by
  simp only [tsmTick]
  split_ifs <;> simp_all

theorem tsmTick_syncWide (r : TsmRegs) : (tsmTick r).syncWide =
    if r.line.toNat + 1 = 247 then true else if r.line.toNat + 1 = 249 then false else r.syncWide := by
  simp only [tsmTick]
  split_ifs <;> simp_all

theorem tsmTick_lpmReq (r : TsmRegs) : (tsmTick r).lpmReq =
    if r.line.toNat + 1 = 261 then true else if r.line.toNat + 1 = 25 then false else r.lpmReq := by
  simp only [tsmTick]
  split_ifs <;> simp_all

/-- I2 to I5 of R31, said of the four registers of the timing state machine. -/
structure TsmInv (r : TsmRegs) : Prop where
  line_le : r.line.toNat ≤ 260
  trigEn_iff : r.trigEn = true ↔ 29 ≤ r.line.toNat ∧ r.line.toNat ≤ 220
  syncWide_iff : r.syncWide = true ↔ 247 ≤ r.line.toNat ∧ r.line.toNat ≤ 248
  lpmReq_line : r.lpmReq = true → r.line.toNat ≤ 24

theorem Inv.tsmInv {s : State} (h : Inv s) : TsmInv s.tsm := ⟨h.line_le, h.trigEn_iff, h.syncWide_iff, h.lpmReq_line⟩

theorem TsmInv.tsmTick {r : TsmRegs} (h : TsmInv r) : TsmInv (tsmTick r) := by
  obtain ⟨hline, htrig, hwide, hlpm⟩ := h
  have hnext := tsmTick_line hline
  constructor
  case line_le => omega
  case trigEn_iff =>
    rw [tsmTick_trigEn, hnext]
    split_ifs <;> simp only [htrig, true_iff, false_iff] <;> omega
  case syncWide_iff =>
    rw [tsmTick_syncWide, hnext]
    split_ifs <;> simp only [hwide, true_iff, false_iff] <;> omega
  case lpmReq_line =>
    rw [tsmTick_lpmReq, hnext]
    intro hreq
    split_ifs at hreq
    · omega
    · have := hlpm hreq
      omega

/-! ### The registers after a cycle without reset -/

section Clocked

variable {s : State}

theorem clocked_tsm (s : State) : (clocked s).tsm = if s.tick then tsmTick s.tsm else s.tsm := by
  cases h : s.tick <;> simp [clocked, State.tsm, h]

theorem clocked_hcnt_of_tick (h : s.tick = true) : (clocked s).hcnt = 0 := by simp [clocked, h]

theorem clocked_hcnt_of_not_tick (hle : s.hcnt ≤ s.params.lineLast) (h : ¬ s.tick = true) :
    (clocked s).hcnt = s.hcnt + 1 := by
  have hlt : s.hcnt < s.params.lineLast := lt_of_le_of_ne hle (mt tick_iff.mpr h)
  simp [clocked, h, hcntNext_of_lt hlt]

theorem clocked_line_of_not_tick (h : ¬ s.tick = true) : (clocked s).line = s.line := by simp [clocked, h]

theorem active_clocked_of_not_tick (h : ¬ s.tick = true) : (clocked s).active ↔ s.active := by
  rw [State.active, clocked_line_of_not_tick h]

theorem clocked_row_of_not_trig (h : ¬ s.trig = true) : (clocked s).row = s.row := by simp [clocked, h]

/-- START (R101). -/
theorem clocked_of_start (ht : s.trig = true) (hb : s.bidx = 8) :
    (clocked s).row = rowIndex s.line ∧ (clocked s).bidx = 0 := by
  simp [clocked, ht, State.seqBusy, hb]

/-- LOAD fires: the sequencer has a row in progress and the shifter can take a byte (R103). -/
abbrev State.loads (s : State) : Prop := s.bidx ≠ 8 ∧ s.ready = true

theorem loads_iff : s.loads ↔ (s.seqBusy && s.ready) = true := by simp [seqBusy_iff]

/-- LOAD, whether SHIFT fires too or not (R103, R111). -/
theorem clocked_of_load (hl : s.loads) (hle : s.bidx.toNat ≤ 8) :
    (clocked s).bidx.toNat = s.bidx.toNat + 1 ∧ (clocked s).bcnt = 8 ∧ (clocked s).bdiv = 0 := by
  have hbusy : s.seqBusy = true := seqBusy_iff.mpr hl.1
  simp [clocked, hbusy, hl.2, bidxNext_toNat (lt_of_le_of_lt hle (by decide))]

/-- Without START and LOAD the byte index is kept (R30). -/
theorem clocked_bidx_of_not_load (ht : ¬ s.trig = true) (hl : ¬ s.loads) : (clocked s).bidx = s.bidx := by
  rw [loads_iff] at hl
  simp [clocked, ht, hl]

/-- SHIFT without LOAD (R105). -/
theorem clocked_of_shift (hc : s.bcnt ≠ 0) (he : s.bitEnd = true) (hl : ¬ s.loads) :
    (clocked s).bcnt.toNat = s.bcnt.toNat - 1 ∧ (clocked s).bdiv = 0 := by
  rw [loads_iff] at hl
  simp [clocked, shifting_iff.mpr hc, he, hl, ← bcntPrev_toNat hc]

/-- In the middle of a bit LOAD does not fire (R111). -/
theorem not_loads_of_not_bitEnd (hc : s.bcnt ≠ 0) (he : ¬ s.bitEnd = true) : ¬ s.loads :=
  fun hl => he (ready_shifting_bitEnd s hl.2 (shifting_iff.mpr hc))

/-- BITHOLD (R106). -/
theorem clocked_of_bithold (hc : s.bcnt ≠ 0) (he : ¬ s.bitEnd = true) (hle : s.bdiv ≤ s.params.bitLast) :
    (clocked s).bcnt = s.bcnt ∧ (clocked s).bdiv = s.bdiv + 1 := by
  have hlt : s.bdiv < s.params.bitLast := lt_of_le_of_ne hle (mt bitEnd_iff.mpr he)
  have hl := not_loads_of_not_bitEnd hc he
  rw [loads_iff] at hl
  simp [clocked, shifting_iff.mpr hc, he, hl, bdivNext_of_lt hlt]

/-- An empty shifter stays empty without LOAD. -/
theorem clocked_of_empty (hc : s.bcnt = 0) (hl : ¬ s.loads) : (clocked s).bcnt = 0 ∧ (clocked s).bdiv = s.bdiv := by
  have hs : ¬ s.shifting = true := mt shifting_iff.mp (not_not_intro hc)
  rw [loads_iff] at hl
  simp [clocked, hs, hl, hc]

end Clocked

/-! ### I1 to I7 -/

/-- The bounds of R31 on the shifter, I6 and I7. -/
structure ShifterInv (s : State) : Prop where
  bcnt_le : s.bcnt.toNat ≤ 8
  bdiv_le : s.bdiv ≤ s.params.bitLast
  bdiv_empty : s.bcnt = 0 → s.bdiv = 0

theorem Inv.shifterInv_clocked {s : State} (h : Inv s) : ShifterInv (clocked s) := by
  have hp : (clocked s).params = s.params := rfl
  by_cases hl : s.loads
  · obtain ⟨-, hbcnt, hbdiv⟩ := clocked_of_load hl h.bidx_le
    exact ⟨by simp [hbcnt], by simp [hbdiv], fun _ => hbdiv⟩
  by_cases hc : s.bcnt = 0
  · obtain ⟨hbcnt, hbdiv⟩ := clocked_of_empty hc hl
    exact ⟨by simp [hbcnt], hbdiv ▸ h.bdiv_le, fun _ => hbdiv ▸ h.bdiv_empty hc⟩
  by_cases he : s.bitEnd = true
  · obtain ⟨hbcnt, hbdiv⟩ := clocked_of_shift hc he hl
    exact ⟨hbcnt ▸ (Nat.sub_le _ _).trans h.bcnt_le, by simp [hbdiv], fun _ => hbdiv⟩
  · obtain ⟨hbcnt, hbdiv⟩ := clocked_of_bithold hc he h.bdiv_le
    have hlt : s.bdiv < s.params.bitLast := lt_of_le_of_ne h.bdiv_le (mt bitEnd_iff.mpr he)
    exact ⟨hbcnt ▸ h.bcnt_le, hbdiv ▸ hlt, fun h0 => absurd (hbcnt ▸ h0) hc⟩

theorem Inv.hcnt_clocked_le {s : State} (h : Inv s) : (clocked s).hcnt ≤ s.params.lineLast := by
  by_cases ht : s.tick = true
  · simp [clocked_hcnt_of_tick ht]
  · rw [clocked_hcnt_of_not_tick h.hcnt_le ht]
    exact lt_of_le_of_ne h.hcnt_le (mt tick_iff.mpr ht)

theorem Inv.bidx_clocked_le {s : State} (h : Inv s) : (clocked s).bidx.toNat ≤ 8 := by
  simp only [clocked]
  split_ifs with hs hl
  · simp
  · have hne : s.bidx ≠ 8 := seqBusy_iff.mp (Bool.and_eq_true_iff.mp hl).1
    have := h.bidx_le
    rw [bidxNext_toNat (by omega)]
    bv_omega
  · exact h.bidx_le

/-- START fires on active lines only, and their rows are 0 to 47 (R112). -/
theorem Inv.row_clocked_le {s : State} (h : Inv s) : (clocked s).row.toNat ≤ 47 := by
  simp only [clocked]
  split_ifs with hs
  · have htrig : s.trigEn = true := (trig_iff.mp (Bool.and_eq_true_iff.mp hs).1).1
    obtain ⟨hlo, hhi⟩ := h.trigEn_iff.mp htrig
    rw [rowIndex_toNat hlo]
    omega
  · exact h.row_le

theorem Inv.clocked {s : State} (h : Inv s) : Inv (clocked s) := by
  have htsm : TsmInv (Machine.clocked s).tsm := by
    rw [clocked_tsm]
    split
    · exact h.tsmInv.tsmTick
    · exact h.tsmInv
  obtain ⟨hbcnt, hbdiv, hempty⟩ := h.shifterInv_clocked
  exact ⟨h.hcnt_clocked_le, htsm.line_le, htsm.trigEn_iff, htsm.syncWide_iff, htsm.lpmReq_line, h.bidx_clocked_le,
    hbcnt, hbdiv, h.row_clocked_le, hempty⟩

theorem inv_afterReset (p : Params) (fb : List Host.Cell) (ins : List Input) : Inv (State.afterReset p fb ins) := by
  constructor <;> simp

/-! ### The scan position (R108) -/

/-- The first case of R108: nothing in progress, and not in the part of an active line in which the picture is shown. -/
abbrev State.atRest (s : State) : Prop :=
  s.serializerIdle ∧
    (s.active → s.hcnt ≤ s.params.pictureDelay ∨ s.params.pictureDelay + 2 + 64 * s.params.bitDiv ≤ s.hcnt)

/-- The second case of R108: the cycle after the trigger, byte 0 about to be loaded. -/
abbrev State.atFirstLoad (s : State) : Prop :=
  s.active ∧ s.row = rowIndex s.line ∧ s.bidx = 0 ∧ s.bcnt = 0 ∧ s.hcnt = s.params.pictureDelay + 1

/-- The third case of R108: the bit that the cycle demands is on the pin. -/
abbrev State.showing (s : State) : Prop :=
  s.active ∧ s.row = rowIndex s.line ∧ 1 ≤ s.bidx.toNat ∧ 1 ≤ s.bcnt.toNat ∧ s.hcnt = s.scanCycle

/-- How many bits of the line are over before the one on the pin: the `bidx - 1` bytes before this one, and `8 - bcnt` bits
of it. -/
def State.bitsOver (s : State) : Nat := 8 * (s.bidx.toNat - 1) + (8 - s.bcnt.toNat)

theorem scanCycle_eq (s : State) :
    s.scanCycle = s.params.pictureDelay + 2 + s.bitsOver * s.params.bitDiv + s.bdiv := by
  unfold State.scanCycle State.bitsOver
  ring

section Scan

variable {s : State}

/-- The picture is over before cycle `PICTURE_DELAY + 2 + 64 * BIT_DIV` (R108). -/
theorem Inv.scanCycle_lt (h : Inv s) (hc : 1 ≤ s.bcnt.toNat) :
    s.scanCycle < s.params.pictureDelay + 2 + 64 * s.params.bitDiv := by
  have hbits : s.bitsOver + 1 ≤ 64 := by
    have := h.bidx_le
    unfold State.bitsOver
    omega
  have hdiv : s.bdiv < s.params.bitDiv := Nat.lt_succ_of_le h.bdiv_le
  have hmul : (s.bitsOver + 1) * s.params.bitDiv ≤ 64 * s.params.bitDiv := Nat.mul_le_mul_right _ hbits
  rw [scanCycle_eq]
  linarith

/-- At the end of a bit period the demanded cycle goes on to the next bit. -/
theorem scanCycle_succ_of_bitEnd {t : State} (hp : t.params = s.params) (he : s.bitEnd = true)
    (hbits : t.bitsOver = s.bitsOver + 1) (hdiv : t.bdiv = 0) : t.scanCycle = s.scanCycle + 1 := by
  rw [scanCycle_eq, scanCycle_eq, hp, hbits, hdiv, bitEnd_iff.mp he, Params.bitDiv]
  ring

/-- The trigger lies before the picture of its line (R124). -/
theorem not_trig_of_gt (h : s.params.pictureDelay < s.hcnt) : ¬ s.trig = true :=
  fun ht => absurd (trig_iff.mp ht).2 h.ne'

theorem not_trig_of_showing (h : s.showing) : ¬ s.trig = true := by
  obtain ⟨-, -, -, -, hcycle⟩ := h
  rw [scanCycle_eq] at hcycle
  exact not_trig_of_gt (by omega)

/-- The budget K3: the picture is over by the end of the line (R7). -/
theorem not_tick_of_lt (h : s.params.Legal) (hlt : s.hcnt + 1 < s.params.pictureDelay + 2 + 64 * s.params.bitDiv) :
    ¬ s.tick = true := by
  have hbudget : s.params.pictureDelay + 2 + 64 * s.params.bitDiv ≤ s.params.lineLast + 1 := h.budget
  rw [tick_iff]
  omega

/-- If the serializer shows next the bit that the next cycle of its line demands, that cycle is still in the line. -/
theorem showing_clocked (h : ScanInv s) (hactive : s.active) (hrow : s.row = rowIndex s.line) (htrig : ¬ s.trig = true)
    (hb : 1 ≤ (clocked s).bidx.toNat) (hc : 1 ≤ (clocked s).bcnt.toNat)
    (hcycle : (clocked s).scanCycle = s.hcnt + 1) : (clocked s).showing := by
  have htick : ¬ s.tick = true := not_tick_of_lt h.legal (hcycle ▸ h.inv.clocked.scanCycle_lt hc)
  refine ⟨(active_clocked_of_not_tick htick).mpr hactive, ?_, hb, hc, ?_⟩
  · rw [clocked_row_of_not_trig htrig, clocked_line_of_not_tick htick, hrow]
  · rw [clocked_hcnt_of_not_tick h.inv.hcnt_le htick, hcycle]

theorem showing_clocked_of_showing (h : ScanInv s) (hs : s.showing) (hb : 1 ≤ (clocked s).bidx.toNat)
    (hc : 1 ≤ (clocked s).bcnt.toNat) (hcycle : (clocked s).scanCycle = s.scanCycle + 1) : (clocked s).showing := by
  have ⟨hactive, hrow, _, _, hhcnt⟩ := hs
  exact showing_clocked h hactive hrow (not_trig_of_showing hs) hb hc (hhcnt ▸ hcycle)

/-- START: from rest into the cycle of the first LOAD (R101). -/
theorem atFirstLoad_clocked_of_trig (h : ScanInv s) (hs : s.atRest) (ht : s.trig = true) : (clocked s).atFirstLoad := by
  obtain ⟨⟨hbidx, hbcnt⟩, -⟩ := hs
  obtain ⟨harm, hhcnt⟩ := trig_iff.mp ht
  have hdiv : 0 < s.params.bitDiv := Nat.succ_pos _
  have htick : ¬ s.tick = true := not_tick_of_lt h.legal (by omega)
  obtain ⟨hrow, hbidx'⟩ := clocked_of_start ht hbidx
  obtain ⟨hbcnt', -⟩ := clocked_of_empty hbcnt (fun hl => hl.1 hbidx)
  refine ⟨(active_clocked_of_not_tick htick).mpr (h.inv.trigEn_iff.mp harm), ?_, hbidx', hbcnt', ?_⟩
  · rw [hrow, clocked_line_of_not_tick htick]
  · rw [clocked_hcnt_of_not_tick h.inv.hcnt_le htick, hhcnt]
    rfl

/-- An idle serializer in cycle `hcnt + 1` of the line, or in cycle 0 of the next, is at rest unless the picture of the line
is to be shown then. -/
theorem atRest_clocked (h : ScanInv s) (hidle : (clocked s).serializerIdle)
    (hpos : s.active → s.hcnt + 1 ≤ s.params.pictureDelay ∨
      s.params.pictureDelay + 2 + 64 * s.params.bitDiv ≤ s.hcnt + 1) : (clocked s).atRest := by
  refine ⟨hidle, fun hactive => ?_⟩
  by_cases htick : s.tick = true
  · rw [clocked_hcnt_of_tick htick]
    exact .inl (Nat.zero_le _)
  · rw [clocked_hcnt_of_not_tick h.inv.hcnt_le htick]
    exact hpos ((active_clocked_of_not_tick htick).mp hactive)

/-- Without a trigger the serializer stays at rest. -/
theorem atRest_clocked_of_not_trig (h : ScanInv s) (hs : s.atRest) (ht : ¬ s.trig = true) : (clocked s).atRest := by
  obtain ⟨⟨hbidx, hbcnt⟩, hpos⟩ := hs
  have hl : ¬ s.loads := fun hl => hl.1 hbidx
  obtain ⟨hbcnt', -⟩ := clocked_of_empty hbcnt hl
  refine atRest_clocked h ⟨(clocked_bidx_of_not_load ht hl).trans hbidx, hbcnt'⟩ fun hactive => ?_
  have hne : s.hcnt ≠ s.params.pictureDelay := fun he => ht (trig_iff.mpr ⟨h.inv.trigEn_iff.mpr hactive, he⟩)
  have := hpos hactive
  omega

/-- The first LOAD puts bit 7 of byte 0 on the pin, in cycle `PICTURE_DELAY + 2` (R108). -/
theorem showing_clocked_of_atFirstLoad (h : ScanInv s) (hs : s.atFirstLoad) : (clocked s).showing := by
  obtain ⟨hactive, hrow, hbidx, hbcnt, hhcnt⟩ := hs
  have hl : s.loads := ⟨by simp [hbidx], ready_iff.mpr (.inl hbcnt)⟩
  obtain ⟨hbidx', hbcnt', hbdiv'⟩ := clocked_of_load hl h.inv.bidx_le
  refine showing_clocked h hactive hrow (not_trig_of_gt (by omega)) (by omega) (by simp [hbcnt']) ?_
  rw [hhcnt, State.scanCycle, hbidx', hbcnt', hbdiv', hbidx]
  simp [clocked]

/-- BITHOLD: the same bit for one more cycle (R106). -/
theorem showing_clocked_of_bithold (h : ScanInv s) (hs : s.showing) (he : ¬ s.bitEnd = true) : (clocked s).showing := by
  have ⟨_, _, hb, hc, _⟩ := hs
  have hne : s.bcnt ≠ 0 := by bv_omega
  have hbidx := clocked_bidx_of_not_load (not_trig_of_showing hs) (not_loads_of_not_bitEnd hne he)
  obtain ⟨hbcnt, hbdiv⟩ := clocked_of_bithold hne he h.inv.bdiv_le
  refine showing_clocked_of_showing h hs (hbidx ▸ hb) (hbcnt ▸ hc) ?_
  unfold State.scanCycle
  rw [hbidx, hbcnt, hbdiv]
  rfl

/-- LOAD in the last cycle of a byte: bit 7 of the next one (R103, R111). -/
theorem showing_clocked_of_load (h : ScanInv s) (hs : s.showing) (hl : s.loads) : (clocked s).showing := by
  have ⟨_, _, hb, hc, _⟩ := hs
  have hne : s.bcnt ≠ 0 := by bv_omega
  obtain ⟨hlast, hend⟩ := (ready_iff.mp hl.2).resolve_left hne
  obtain ⟨hbidx, hbcnt, hbdiv⟩ := clocked_of_load hl h.inv.bidx_le
  refine showing_clocked_of_showing h hs (by omega) (by simp [hbcnt]) ?_
  refine scanCycle_succ_of_bitEnd rfl (bitEnd_iff.mpr hend) ?_ hbdiv
  simp only [State.bitsOver, hbidx, hbcnt, hlast, BitVec.ofNat_eq_ofNat, BitVec.reduceToNat]
  omega

/-- SHIFT before the last bit of a byte: its next bit (R105). -/
theorem showing_clocked_of_shift (h : ScanInv s) (hs : s.showing) (he : s.bitEnd = true) (hmore : 2 ≤ s.bcnt.toNat) :
    (clocked s).showing := by
  have ⟨_, _, hb, _, _⟩ := hs
  have hne : s.bcnt ≠ 0 := by bv_omega
  have hl : ¬ s.loads := by
    rintro ⟨-, hr⟩
    obtain ⟨hlast, -⟩ := (ready_iff.mp hr).resolve_left hne
    simp [hlast] at hmore
  have hbidx := clocked_bidx_of_not_load (not_trig_of_showing hs) hl
  obtain ⟨hbcnt, hbdiv⟩ := clocked_of_shift hne he hl
  refine showing_clocked_of_showing h hs (hbidx ▸ hb) (by omega) (scanCycle_succ_of_bitEnd rfl he ?_ hbdiv)
  have := h.inv.bcnt_le
  rw [State.bitsOver, State.bitsOver, hbidx, hbcnt]
  omega

/-- SHIFT after the last bit of byte 7: the serializer is idle for the rest of the line (R105, R108). -/
theorem atRest_clocked_of_last_bit (h : ScanInv s) (hs : s.showing) (he : s.bitEnd = true) (hbcnt : s.bcnt = 1)
    (hbidx : s.bidx = 8) : (clocked s).atRest := by
  have hl : ¬ s.loads := fun hl => hl.1 hbidx
  obtain ⟨hbcnt', -⟩ := clocked_of_shift (by simp [hbcnt]) he hl
  have hzero : (clocked s).bcnt = 0 := BitVec.eq_of_toNat_eq (by simp [hbcnt', hbcnt])
  refine atRest_clocked h ⟨(clocked_bidx_of_not_load (not_trig_of_showing hs) hl).trans hbidx, hzero⟩ fun _ => .inr ?_
  obtain ⟨-, -, -, -, hhcnt⟩ := hs
  rw [hhcnt, scanCycle_eq, State.bitsOver, hbidx, hbcnt, bitEnd_iff.mp he]
  simp only [Params.bitDiv, BitVec.ofNat_eq_ofNat, BitVec.reduceToNat]
  omega

/-- R108 for a cycle without reset: rest, first LOAD, the bits of the line, rest. -/
theorem ScanInv.clocked (h : ScanInv s) : ScanInv (clocked s) := by
  refine ⟨h.inv.clocked, h.legal, ?_⟩
  show (Machine.clocked s).atRest ∨ (Machine.clocked s).atFirstLoad ∨ (Machine.clocked s).showing
  rcases h.position with (hs : s.atRest) | (hs : s.atFirstLoad) | (hs : s.showing)
  · by_cases ht : s.trig = true
    · exact .inr (.inl (atFirstLoad_clocked_of_trig h hs ht))
    · exact .inl (atRest_clocked_of_not_trig h hs ht)
  · exact .inr (.inr (showing_clocked_of_atFirstLoad h hs))
  · by_cases he : s.bitEnd = true
    · by_cases hlast : s.bcnt = 1
      · have hready : s.ready = true := ready_iff.mpr (.inr ⟨hlast, bitEnd_iff.mp he⟩)
        by_cases hbidx : s.bidx = 8
        · exact .inl (atRest_clocked_of_last_bit h hs he hlast hbidx)
        · exact .inr (.inr (showing_clocked_of_load h hs ⟨hbidx, hready⟩))
      · have ⟨_, _, _, hc, _⟩ := hs
        have hmore : 2 ≤ s.bcnt.toNat := by bv_omega
        exact .inr (.inr (showing_clocked_of_shift h hs he hmore))
    · exact .inr (.inr (showing_clocked_of_bithold h hs he))

end Scan

theorem scanInv_afterReset {p : Params} (hp : p.Legal) (fb : List Host.Cell) (ins : List Input) :
    ScanInv (State.afterReset p fb ins) :=
  ⟨inv_afterReset p fb ins, hp, .inl ⟨⟨rfl, rfl⟩, fun _ => .inl (Nat.zero_le _)⟩⟩

/-- Settles O52: a reset cycle leaves the serializer at rest, and every other cycle is `ScanInv.clocked`. -/
theorem everyStepKeepsTheScanPosition : Obligations.EveryStepKeepsTheScanPosition := by
  intro s t h hstep
  rcases step_cases hstep with ⟨-, rfl⟩ | ⟨-, rfl⟩
  · exact scanInv_afterReset h.legal _ _
  · exact h.clocked

end Sys2Proof.Machine
end

section
/-! PROOFS. What the state of the block keeps: the invariants I1 to I8 (R31) in the state after reset and in every step,
and where the serializer stands after reset (R171). -/

namespace Sys2Proof.Machine

/-- Settles O48: a reset cycle establishes the invariants, and every other cycle is `Inv.clocked`. -/
theorem everyStepKeepsTheInvariants : Obligations.EveryStepKeepsTheInvariants := by
  intro s t h hstep
  rcases step_cases hstep with ⟨-, rfl⟩ | ⟨-, rfl⟩
  · exact inv_afterReset _ _ _
  · exact h.clocked

/-- Settles O49; `State.reset` is one of the states after reset. -/
theorem invariantsHoldAfterReset : Obligations.InvariantsHoldAfterReset :=
  ⟨inv_afterReset _ _ _, inv_afterReset⟩

/-- Settles O53: after reset the serializer is at rest in cycle 0, which is not past the trigger. -/
theorem scanPositionHoldsAfterReset : Obligations.ScanPositionHoldsAfterReset :=
  fun _ fb ins hlegal => scanInv_afterReset hlegal fb ins

/-- Settles O14: each value is read off `State.afterReset`; the normal sync pulse covers cycle 0 unless its width is 0. -/
theorem resetValuesComplete : Obligations.ResetValuesComplete := by
  refine ⟨rfl, fun p fb ins => ⟨_, rfl, rfl, rfl, rfl, rfl, rfl, rfl, rfl, rfl, rfl, rfl, rfl, rfl, fun hsync => ?_,
    rfl, rfl, (by decide : fbAddress 0 8 = 0), rfl⟩⟩
  have hlow : 0 < p.hsyncWidth := hsync
  simp [State.syncN, State.syncWidth, hlow]

/-! ### The read address (R25, I8) -/

theorem fbRaddr_toNat (s : State) : s.fbRaddr.toNat = s.row.toNat * 8 + s.bidx.toNat % 8 := fbAddress_toNat _ _

/-- I8 of R31: rows 0 to 47 of eight bytes are the 384 bytes. -/
theorem Inv.fbRaddr_le {s : State} (h : Inv s) : s.fbRaddr.toNat ≤ 383 := by
  have := h.row_le
  rw [fbRaddr_toNat]
  omega

/-- Settles O50: below address 384 the read port answers the stored byte (R44). -/
theorem readAddressIsInTheFramebuffer : Obligations.ReadAddressIsInTheFramebuffer := by
  intro s h
  have hlt : s.fbRaddr.toNat < Config.fbBytes := Nat.lt_succ_of_le h.fbRaddr_le
  refine ⟨h.fbRaddr_le, ?_⟩
  rw [← fbRaddr_toNat]
  exact if_pos hlt

end Sys2Proof.Machine
end

section
/-! PROOFS. R30: how the operations of a cycle make up the step, and which registers they write (R10). -/

namespace Sys2Proof.Machine

/-! ### The effect of each operation of format C on the state -/

section Effects

variable (s : State)

@[simp] theorem effect_reset : effect .reset s = State.afterReset s.params s.fb s.inputs := rfl
@[simp] theorem effect_hcount : effect .hcount s = s.setHcnt (hcntNext s.params s.hcnt) := rfl
@[simp] theorem effect_tick : effect .tick s = (s.setHcnt 0).setTsm (tsmTick s.tsm) := rfl
@[simp] theorem effect_start : effect .start s = (s.setRow (rowIndex s.line)).setBidx 0 := rfl
@[simp] theorem effect_trigdrop : effect .trigdrop s = s := rfl
@[simp] theorem effect_load : effect .load s = (s.setBidx (bidxNext s.bidx)).setShifter s.fbRdata 8 0 := rfl
@[simp] theorem effect_wait : effect .wait s = s := rfl
@[simp] theorem effect_shift : effect .shift s = s.setShifter (s.sr <<< 1) (bcntPrev s.bcnt) 0 := rfl
@[simp] theorem effect_bithold : effect .bithold s = s.setBdiv (bdivNext s.params s.bdiv) := rfl
@[simp] theorem effect_fbwrite : effect .fbwrite s = s.setFb (Memory.write s.fb s.input.fbWaddr s.input.fbWdata) := rfl

end Effects

/-! ### A cycle of one operation -/

/-- Alone in its cycle an operation is committed whole, for it changes only what it writes (R10). TICK alone is no cycle. -/
theorem commit_effect_self {i : Instr} (h : i ≠ .tick) (s : State) : commit i (effect i s) s = effect i s := by
  cases i
  case tick => exact absurd rfl h
  all_goals rfl

theorem decodeLine_ne_tick (n : Nat) : decodeLine n ≠ .tick := fun h => by
  have := decodeLine_format n
  simp [h, encodingRow] at this

/-- With TICK the operation of format L fires (R64). -/
theorem decodeLine_mem_firing {s : State} (h : .tick ∈ s.firing) : decodeLine s.lnext ∈ s.firing := by
  rw [State.firing, mem_decode_line (decodeLine_format _)]
  exact ⟨(mem_decode_control rfl).mp h, rfl⟩

/-- TICK committed over its operation of format L is the effect of TICK (R122). -/
theorem commit_tick_decodeLine (s : State) :
    commit .tick (effect .tick s) (commit (decodeLine s.lnext) (effect (decodeLine s.lnext) s) s) = effect .tick s := by
  rw [commit_decodeLine s s rfl]
  rfl

/-- Settles O8: what fires alone is committed whole. -/
theorem loneOperationIsTheStep : Obligations.LoneOperationIsTheStep := by
  refine ⟨fun s i hone => ⟨_, exec_eq_effect i s, ?_⟩, fun s l htwo => ⟨_, exec_eq_effect .tick s, ?_⟩⟩
  · have hne : i ≠ .tick := by
      rintro rfl
      have hmem := decodeLine_mem_firing (s := s) (by simp [hone])
      exact decodeLine_ne_tick _ (by simpa [hone] using hmem)
    rw [step, cycle_eq, hone]
    exact congrArg (fun t : State => Host.Outcome.next t.endCycle) (commit_effect_self hne s)
  · have hline : decodeLine s.lnext = l := by
      have hmem := decodeLine_mem_firing (s := s) (by simp [htwo])
      simpa [htwo, decodeLine_ne_tick] using hmem
    rw [step, cycle_eq, htwo, ← hline]
    exact congrArg (fun t : State => Host.Outcome.next t.endCycle) (commit_tick_decodeLine s)

/-! ### The priority of R30 -/

@[simp] theorem afterReset_tsm (p : Params) (fb : List Host.Cell) (ins : List Input) :
    (State.afterReset p fb ins).tsm = ⟨0, false, false, false⟩ := rfl

theorem after_of_rst {s : State} (h : s.input.rst = true) :
    after s = State.afterReset s.params (fbAfter s) s.inputs.tail := if_pos h

theorem after_of_not_rst {s : State} (h : s.input.rst = false) : after s = clocked s := by simp [after, h]

/-- Settles O7: in a reset cycle by `State.afterReset`, in every other cycle by `clocked`, register by register. -/
theorem stepTakesEachRegisterByPriority : Obligations.StepTakesEachRegisterByPriority := by
  intro s
  refine ⟨fun i => effect i s, fun i => exec_eq_effect i s, after s, step_eq_after s, ?_⟩
  rw [effect_decodeLine_tsm]
  cases hr : s.input.rst
  · rw [after_of_not_rst hr]
    refine ⟨?hcnt, ?tsm, ?row, ?bidx, ?sr, ?bcnt, ?bdiv, ?fb, rfl, rfl⟩
    case hcnt => simp [fires_reset, fires_tick, hr, clocked]
    case tsm => simp [fires_reset, fires_tick, hr, clocked_tsm]
    case row => simp [fires_reset, fires_start, hr, clocked]
    case bidx => simp [fires_reset, fires_start, fires_load, hr, clocked]
    case sr => simp [fires_reset, fires_load, fires_shift, hr, clocked]
    case bcnt => simp [fires_reset, fires_load, fires_shift, hr, clocked]
    case bdiv =>
      cases hs : s.shifting <;> cases he : s.bitEnd <;>
        simp [fires_reset, fires_load, fires_shift, fires_bithold, hr, hs, he, clocked]
    case fb => simp [fires_fbwrite, clocked, fbAfter]
  · rw [after_of_rst hr]
    simp [fires_reset, fires_fbwrite, hr, fbAfter]

/-! ### The operations of format L by the line they end (R64) -/

section LineOperations

variable {s : State}

theorem fires_lwake_iff : s.fires .lwake = true ↔ s.fires .tick = true ∧ s.line.toNat + 1 = 25 := by
  simp [fires_line_iff s (i := .lwake) rfl, decodeLine_eq_iff, State.lnext]
theorem fires_larm_iff : s.fires .larm = true ↔ s.fires .tick = true ∧ s.line.toNat + 1 = 29 := by
  simp [fires_line_iff s (i := .larm) rfl, decodeLine_eq_iff, State.lnext]
theorem fires_ldisarm_iff : s.fires .ldisarm = true ↔ s.fires .tick = true ∧ s.line.toNat + 1 = 221 := by
  simp [fires_line_iff s (i := .ldisarm) rfl, decodeLine_eq_iff, State.lnext]
theorem fires_lvsync_iff : s.fires .lvsync = true ↔ s.fires .tick = true ∧ s.line.toNat + 1 = 247 := by
  simp [fires_line_iff s (i := .lvsync) rfl, decodeLine_eq_iff, State.lnext]
theorem fires_lhsync_iff : s.fires .lhsync = true ↔ s.fires .tick = true ∧ s.line.toNat + 1 = 249 := by
  simp [fires_line_iff s (i := .lhsync) rfl, decodeLine_eq_iff, State.lnext]
theorem fires_lwrap_iff : s.fires .lwrap = true ↔ s.fires .tick = true ∧ s.line.toNat + 1 = 261 := by
  simp [fires_line_iff s (i := .lwrap) rfl, decodeLine_eq_iff, State.lnext]

end LineOperations

/-! ### The flags of the timing state machine after a step, by the operations that write them (R10) -/

section Flags

variable (s : State)

theorem after_trigEn : (after s).trigEn =
    if s.fires .reset then false else if s.fires .larm then true else if s.fires .ldisarm then false else s.trigEn := by
  simp only [fires_larm_iff, fires_ldisarm_iff, fires_reset, fires_tick, after]
  cases s.input.rst <;> cases ht : s.tick <;> simp [clocked, ht, tsmTick_trigEn]

theorem after_syncWide : (after s).syncWide =
    if s.fires .reset then false else if s.fires .lvsync then true else if s.fires .lhsync then false
      else s.syncWide := by
  simp only [fires_lvsync_iff, fires_lhsync_iff, fires_reset, fires_tick, after]
  cases s.input.rst <;> cases ht : s.tick <;> simp [clocked, ht, tsmTick_syncWide]

theorem after_lpmReq : (after s).lpmReq =
    if s.fires .reset then false else if s.fires .lwrap then true else if s.fires .lwake then false else s.lpmReq := by
  simp only [fires_lwrap_iff, fires_lwake_iff, fires_reset, fires_tick, after]
  cases s.input.rst <;> cases ht : s.tick <;> simp [clocked, ht, tsmTick_lpmReq]

/-- In every cycle the line timer counts, ends its line, or is reset (R63). -/
theorem fires_timer : s.fires .hcount = true ∨ s.fires .tick = true ∨ s.fires .reset = true := by
  rw [fires_hcount, fires_tick, fires_reset]
  cases s.input.rst <;> cases s.tick <;> decide

end Flags

/-- Settles O12: each register after the step is a choice among its writers (R30, `stepTakesEachRegisterByPriority` and the
flags above), which comes down to the old value when none of them fires. -/
theorem registersChangeOnlyByTheirWriters : Obligations.RegistersChangeOnlyByTheirWriters := by
  intro s t hstep
  obtain rfl : after s = t := by simpa [step_eq_after] using hstep
  obtain ⟨r, -, u, hu, -, htsm, hrow, hbidx, hsr, hbcnt, hbdiv, hfb, hparams, -⟩ := stepTakesEachRegisterByPriority s
  obtain rfl : after s = u := by simpa [step_eq_after] using hu
  refine ⟨hparams, fun _ => fires_timer s, ?line, ?trigEn, ?syncWide, ?lpmReq, ?row, ?bidx, ?sr, ?bcnt, ?bdiv, ?fb⟩ <;>
    intro hchange <;> contrapose! hchange
  case line =>
    have hkept : (after s).tsm = s.tsm := by simp [htsm, hchange]
    exact congrArg TsmRegs.line hkept
  case trigEn => simp [after_trigEn, hchange]
  case syncWide => simp [after_syncWide, hchange]
  case lpmReq => simp [after_lpmReq, hchange]
  case row => simp [hrow, hchange]
  case bidx => simp [hbidx, hchange]
  case sr => simp [hsr, hchange]
  case bcnt => simp [hbcnt, hchange]
  case bdiv => simp [hbdiv, hchange]
  case fb => rw [hfb, if_neg hchange]

end Sys2Proof.Machine
end

section
/-! PROOFS. R30: a cycle is the same as its operations run one after another in the order `turnOrder`. -/

namespace Sys2Proof.Machine

/-- The effect of an operation on `a`, if it fires in the cycle that `s` begins. -/
def turn (s a : State) (i : Instr) : State := if s.fires i then effect i a else a

theorem runInTurn_eq (ops : List Instr) (s : State) :
    runInTurn ops s = .next (ops.foldl (fun a i => effect i a) s) := by
  induction ops generalizing s with
  | nil => rfl
  | cons i ops ih => simp [runInTurn, exec_eq_effect, ih]

theorem runInTurn_filter_fires (ops : List Instr) (s : State) :
    runInTurn (ops.filter fun i => s.fires i) s = .next (ops.foldl (turn s) s) := by
  rw [runInTurn_eq, List.foldl_filter]
  rfl

section Turns

variable {s : State} (hr : s.input.rst = false)
include hr

/-- SHIFT and BITHOLD, of which at most one fires (R63). -/
theorem shifter_in_turn : [.shift, .bithold].foldl (turn s) s =
    s.setShifter (if s.shifting && s.bitEnd then s.sr <<< 1 else s.sr)
      (if s.shifting && s.bitEnd then bcntPrev s.bcnt else s.bcnt)
      (if s.shifting then (if s.bitEnd then 0 else bdivNext s.params s.bdiv) else s.bdiv) := by
  cases hs : s.shifting <;> cases he : s.bitEnd <;>
    simp [turn, fires_shift, fires_bithold, hr, hs, he] <;> rfl

/-- After SHIFT and BITHOLD the others: LOAD wins over SHIFT (R111) and reads the row and the byte index before START, which
needs an idle sequencer, writes them. -/
theorem serializer_in_turn : [.shift, .bithold, .load, .wait, .start, .trigdrop].foldl (turn s) s =
    ((s.setRow (clocked s).row).setBidx (clocked s).bidx).setShifter (clocked s).sr (clocked s).bcnt (clocked s).bdiv := by
  change [.load, .wait, .start, .trigdrop].foldl (turn s) ([.shift, .bithold].foldl (turn s) s) = _
  rw [shifter_in_turn hr]
  simp only [List.foldl, turn, fires_load, fires_start, effect_wait, effect_trigdrop, ite_self, hr, Bool.not_false,
    Bool.true_and, clocked]
  cases s.seqBusy
  · cases s.trig <;> simp <;> rfl
  · cases s.ready <;> simp <;> rfl

/-- HCOUNT or TICK, in a state whose timing registers nothing has changed yet. -/
theorem timer_in_turn {a : State} (hp : a.params = s.params) (hh : a.hcnt = s.hcnt) (ht : a.tsm = s.tsm) :
    [.tick, .hcount].foldl (turn s) a = (a.setHcnt (clocked s).hcnt).setTsm (clocked s).tsm := by
  rw [clocked_tsm]
  cases htick : s.tick
  · simp [turn, fires_tick, fires_hcount, hr, htick, clocked, hp, hh, ← ht]
    rfl
  · simp [turn, fires_tick, fires_hcount, hr, htick, clocked, ht]

/-- The last turns of a cycle without reset. -/
theorem port_in_turn {a : State} (hf : a.fb = s.fb) (hi : a.input = s.input) :
    [.reset, .fbwrite].foldl (turn s) a = a.setFb (fbAfter s) := by
  cases hw : s.input.fbWe <;> simp [turn, fires_reset, fires_fbwrite, hr, hw, fbAfter, hf, hi]
  exact hf ▸ rfl

/-- In a cycle without reset the operations in turn leave what `clocked` says. -/
theorem turnOrder_of_not_rst : (turnOrder.foldl (turn s) s).endCycle = clocked s := by
  change ([.reset, .fbwrite].foldl (turn s) ([.tick, .hcount].foldl (turn s)
    ([.shift, .bithold, .load, .wait, .start, .trigdrop].foldl (turn s) s))).endCycle = _
  rw [serializer_in_turn hr, timer_in_turn hr, port_in_turn hr] <;> rfl

end Turns

/-- In a reset cycle only RESET and FBWRITE have a turn. -/
theorem turnOrder_of_rst {s : State} (hr : s.input.rst = true) :
    (turnOrder.foldl (turn s) s).endCycle = State.afterReset s.params (fbAfter s) s.inputs.tail := by
  have hi : (State.afterReset s.params s.fb s.inputs).input = s.input := rfl
  cases hw : s.input.fbWe <;>
    simp [turnOrder, turn, fires_shift, fires_bithold, fires_load, fires_wait, fires_start, fires_trigdrop, fires_tick,
      fires_hcount, fires_reset, fires_fbwrite, hr, hi, fbAfter, hw] <;> rfl

/-- Settles O9: in a cycle without reset the groups take their turns one after another (`turnOrder_of_not_rst`). -/
theorem cycleEqualsOperationsInTurn : Obligations.CycleEqualsOperationsInTurn := by
  intro s
  refine ⟨turnOrder.foldl (turn s) s, runInTurn_filter_fires turnOrder s, ?_⟩
  cases hr : s.input.rst
  · rw [turnOrder_of_not_rst hr, step_of_not_rst hr]
  · rw [turnOrder_of_rst hr, step_of_rst hr]

end Sys2Proof.Machine
end

section
/-! PROOFS. A table word placed by `withFetchWord` fires the operation it names in the very next cycle (log entry 13). -/

namespace Sys2Proof.Machine

/-- Every control word is made of its eight bits (R62). -/
theorem controlBits_getLsbD (w : ControlWord) : controlBits (w.getLsbD 7) (w.getLsbD 6) (w.getLsbD 5) (w.getLsbD 4)
    (w.getLsbD 3) (w.getLsbD 2) (w.getLsbD 1) (w.getLsbD 0) = w := by
  revert w; decide

/-- BITHOLD is named first only by a word without `seq_busy`, for LOAD and WAIT stand before it (R30, R63). -/
theorem not_busy_of_head_bithold (r t g b y h e w : Bool)
    (hd : (decodeControl (controlBits r t g b y h e w)).head? = some .bithold) : b = false := by
  revert r t g b y h e w; decide

section PlaceControl

variable (s : State) (w : ControlWord)

theorem placeControl_rst : (placeControl s w).input.rst = w.getLsbD 7 := rfl

theorem placeControl_fbWe : (placeControl s w).input.fbWe = w.getLsbD 0 := rfl

theorem placeControl_tick : (placeControl s w).tick = w.getLsbD 6 := by
  dsimp only [State.tick, placeControl]
  generalize w.getLsbD 6 = t, w.getLsbD 5 = g, w.getLsbD 1 = e
  revert t g e; decide

theorem placeControl_trig : (placeControl s w).trig = w.getLsbD 5 := by
  dsimp only [State.trig, placeControl]
  generalize w.getLsbD 6 = t, w.getLsbD 5 = g, w.getLsbD 1 = e, s.trigEn = a
  revert t g e a; decide

theorem placeControl_seqBusy : (placeControl s w).seqBusy = w.getLsbD 4 := by
  dsimp only [State.seqBusy, placeControl]
  generalize w.getLsbD 4 = b
  revert b; decide

theorem placeControl_bitEnd : (placeControl s w).bitEnd = w.getLsbD 1 := by
  dsimp only [State.bitEnd, placeControl]
  generalize w.getLsbD 6 = t, w.getLsbD 5 = g, w.getLsbD 1 = e
  revert t g e; decide

theorem placeControl_bcnt : (placeControl s w).bcnt =
    if w.getLsbD 3 then (if w.getLsbD 2 then (if w.getLsbD 1 then 1 else if w.getLsbD 4 then 0 else 2) else 0)
    else if w.getLsbD 2 || w.getLsbD 4 then 2 else 0 := rfl

/-- With a busy sequencer `ready` is the placed bit. -/
theorem placeControl_ready (hb : w.getLsbD 4 = true) : (placeControl s w).ready = w.getLsbD 3 := by
  rw [State.ready, placeControl_bcnt, placeControl_bitEnd, hb]
  cases w.getLsbD 3 <;> cases w.getLsbD 2 <;> cases w.getLsbD 1 <;> decide

/-- A placed `shifting` is kept, but where the word asks for a LOAD in the middle of a bit, which no state has. -/
theorem placeControl_shifting (hs : w.getLsbD 2 = true) (h : w.getLsbD 1 = true ∨ w.getLsbD 4 = false) :
    (placeControl s w).shifting = true := by
  rw [State.shifting, placeControl_bcnt, hs]
  rcases h with h | h <;> rw [h]
  · cases w.getLsbD 3 <;> cases w.getLsbD 4 <;> decide
  · cases w.getLsbD 3 <;> cases w.getLsbD 1 <;> decide

end PlaceControl

/-- The operation that the decoder names for a control word fires in the state placed for it. -/
theorem placeControl_fires (s : State) (w : ControlWord) {i : Instr} (h : (decodeControl w).head? = some i) :
    (placeControl s w).fires i = true := by
  obtain ⟨hi, hw⟩ := List.mem_filter.mp (List.mem_of_head? h)
  rw [← controlBits_getLsbD w] at hw h
  cases i
  case reset => simpa only [fires_reset, placeControl_rst, matches_reset] using hw
  case hcount => simpa only [fires_hcount, placeControl_rst, placeControl_tick, matches_hcount] using hw
  case tick => simpa only [fires_tick, placeControl_rst, placeControl_tick, matches_tick] using hw
  case start =>
    simpa only [fires_start, placeControl_rst, placeControl_trig, placeControl_seqBusy, matches_start] using hw
  case trigdrop =>
    simpa only [fires_trigdrop, placeControl_rst, placeControl_trig, placeControl_seqBusy, matches_trigdrop] using hw
  case load =>
    rw [matches_load, Bool.and_eq_true, Bool.and_eq_true] at hw
    obtain ⟨⟨hr, hb⟩, hy⟩ := hw
    rw [fires_load, placeControl_rst, placeControl_seqBusy, placeControl_ready s w hb, hr, hb, hy]
    rfl
  case wait =>
    rw [matches_wait, Bool.and_eq_true, Bool.and_eq_true] at hw
    obtain ⟨⟨hr, hb⟩, hy⟩ := hw
    rw [fires_wait, placeControl_rst, placeControl_seqBusy, placeControl_ready s w hb, hr, hb, hy]
    rfl
  case shift =>
    rw [matches_shift, Bool.and_eq_true, Bool.and_eq_true] at hw
    obtain ⟨⟨hr, hs⟩, he⟩ := hw
    rw [fires_shift, placeControl_rst, placeControl_shifting s w hs (.inl he), placeControl_bitEnd, hr, he]
    rfl
  case bithold =>
    have hb := not_busy_of_head_bithold _ _ _ _ _ _ _ _ h
    rw [matches_bithold, Bool.and_eq_true, Bool.and_eq_true] at hw
    obtain ⟨⟨hr, hs⟩, he⟩ := hw
    rw [fires_bithold, placeControl_rst, placeControl_shifting s w hs (.inr hb), placeControl_bitEnd, hr, he]
    rfl
  case fbwrite => simpa only [fires_fbwrite, placeControl_fbWe, matches_fbwrite] using hw
  all_goals exact absurd hi (by decide)

theorem placeLine_tick (s : State) (w : Nat) : (placeLine s w).tick = true := rfl

/-- The number placed is the `lnext` of the state, or 512 for the number 0; both name LSTEP. -/
theorem decodeLine_placeLine_lnext (s : State) {w : Nat} (h : w < 512) :
    decodeLine (placeLine s w).lnext = decodeLine w := by
  have hnext : (placeLine s w).lnext = (w + 511) % 512 + 1 := by simp [State.lnext, placeLine]
  rw [hnext]
  rcases Nat.eq_zero_or_pos w with rfl | hpos
  · rfl
  · congr 1
    omega

theorem placeLine_fires (s : State) {w : Nat} (h : w < 512) : (placeLine s w).fires (decodeLine w) = true := by
  have hr : (placeLine s w).input.rst = false := rfl
  rw [fires_line_iff _ (decodeLine_format w), fires_tick, hr, placeLine_tick, decodeLine_placeLine_lnext s h]
  simp

/-- Settles O6: a control word by `placeControl_fires`, a number of format L by `placeLine_fires`. -/
theorem placedWordFiresNext : Obligations.PlacedWordFiresNext := by
  intro s nbits w i h
  refine ⟨?_, _, step_eq_after _⟩
  unfold State.withFetchWord
  unfold decodeTableWord at h
  split_ifs at h ⊢
  · exact placeControl_fires s _ h
  · obtain rfl : decodeLine w = i := Option.some.inj h
    exact placeLine_fires s ‹_›

end Sys2Proof.Machine
end

section
/-! PROOFS. Runs from reset: the line and the cycle of every time (R88, R173), the low-power request (R142, R179), and the
invariants of R31 in every run. -/

namespace Sys2Proof.Machine

/-! ### The low-power request from an LWRAP on (I5, R142) -/

/-- The request is 1 exactly on lines 0 to 24 (I5, second part). -/
abbrev State.requestFollowsLine (s : State) : Prop := s.lpmReq = true ↔ s.line.toNat ≤ 24

theorem requestFollowsLine_clocked {s : State} (hr : s.input.rst = false) (hline : s.line.toNat ≤ 260)
    (h : s.fires .lwrap = true ∨ s.requestFollowsLine) : (clocked s).requestFollowsLine := by
  rw [fires_lwrap_iff, fires_tick, hr] at h
  cases ht : s.tick
  · have hkept : s.requestFollowsLine := by simpa [ht] using h
    simpa [clocked, ht] using hkept
  · have hnext : (clocked s).line.toNat = (s.line.toNat + 1) % 261 := by
      simpa [clocked, ht] using tsmTick_line (r := s.tsm) hline
    have hreq : (clocked s).lpmReq = (tsmTick s.tsm).lpmReq := by simp [clocked, ht]
    have hold : s.line.toNat + 1 = 261 ∨ s.requestFollowsLine := by simpa [ht] using h
    rw [State.requestFollowsLine, hreq, hnext, tsmTick_lpmReq, tsm_line, tsm_lpmReq]
    split_ifs with hwrap hwake
    · simp [hwrap]
    · simp [hwake]
    · have hkept : s.lpmReq = true ↔ s.line.toNat ≤ 24 := hold.resolve_left hwrap
      rw [hkept]
      omega

/-- Settles O34: a step without reset is `clocked`. -/
theorem lowPowerRequestFollowsTheWrap : Obligations.LowPowerRequestFollowsTheWrap := by
  intro s t hstep hr hline h
  rw [step_of_not_rst hr] at hstep
  cases hstep
  exact requestFollowsLine_clocked hr hline h

theorem run_requestFollowsLine {n : Nat} {s t : State} (hinv : Inv s) (hn : NoReset n s) (h : s.requestFollowsLine)
    (hrun : run n s = .next t) : t.requestFollowsLine := by
  induction n generalizing s with
  | zero => cases hrun; exact h
  | succ n ih =>
    have hafter : after s = clocked s := after_of_not_rst hn.head
    rw [run_succ (step_eq_after s)] at hrun
    refine ih ?_ hn.tail ?_ hrun <;> rw [hafter]
    · exact hinv.clocked
    · exact requestFollowsLine_clocked hn.head hinv.line_le (.inr h)

/-- After a cycle with LWRAP, and no reset in it or since (R142). -/
theorem run_requestFollowsLine_of_lwrap {n : Nat} {u t : State} (hinv : Inv u) (hn : NoReset (n + 1) u)
    (hwrap : u.fires .lwrap = true) (hrun : run (n + 1) u = .next t) : t.requestFollowsLine := by
  have hafter : after u = clocked u := after_of_not_rst hn.head
  rw [run_succ (step_eq_after u)] at hrun
  refine run_requestFollowsLine ?_ hn.tail ?_ hrun <;> rw [hafter]
  · exact hinv.clocked
  · exact requestFollowsLine_clocked hn.head hinv.line_le (.inl hwrap)

/-! ### The invariants in every run -/

/-- What every step keeps holds after any number of cycles. -/
theorem run_keeps {P : State → Prop} (hstep : ∀ s t, P s → step s = .next t → P t) {n : Nat} {s t : State} (h : P s)
    (hrun : run n s = .next t) : P t := by
  induction n generalizing s with
  | zero => cases hrun; exact h
  | succ n ih =>
    rw [run_succ (step_eq_after s)] at hrun
    exact ih (hstep s _ h (step_eq_after s)) hrun

theorem inv_run_afterReset {p : Params} {fb : List Host.Cell} {ins : List Input} {n : Nat} {t : State}
    (h : run n (State.afterReset p fb ins) = .next t) : Inv t :=
  run_keeps everyStepKeepsTheInvariants (inv_afterReset p fb ins) h

theorem scanInv_run_afterReset {p : Params} (hp : p.Legal) {fb : List Host.Cell} {ins : List Input} {n : Nat} {t : State}
    (h : run n (State.afterReset p fb ins) = .next t) : ScanInv t :=
  run_keeps everyStepKeepsTheScanPosition (scanInv_afterReset hp fb ins) h

/-! ### What the scan position says of I9 to I11 -/

section Scan

variable {s : State}

/-- Up to the cycle of the trigger nothing is in progress (I9, I10). -/
theorem ScanInv.idle_of_le_delay (h : ScanInv s) (hle : s.hcnt ≤ s.params.pictureDelay) : s.serializerIdle := by
  rcases h.position with ⟨hidle, -⟩ | ⟨-, -, -, -, hhcnt⟩ | ⟨-, -, -, -, hhcnt⟩
  · exact hidle
  · omega
  · rw [scanCycle_eq] at hhcnt
    omega

/-- A shifter that is not empty shows a bit of the line. -/
theorem ScanInv.showing_of_shifting (h : ScanInv s) (hs : s.shifting = true) : s.showing := by
  have hne : s.bcnt ≠ 0 := shifting_iff.mp hs
  rcases h.position with ⟨⟨-, hempty⟩, -⟩ | ⟨-, -, -, hempty, -⟩ | hshow
  · exact absurd hempty hne
  · exact absurd hempty hne
  · exact hshow

/-- The sync pulse of an active line is the normal one (I3, I4). -/
theorem Inv.syncWidth_of_active (h : Inv s) (ha : s.active) : s.syncWidth = s.params.hsyncWidth := by
  have hwide : ¬ s.syncWide = true := by
    rw [h.syncWide_iff]
    omega
  exact if_neg hwide

/-- I11: by K2 the pulse is over when the picture begins. -/
theorem ScanInv.syncN_of_video (h : ScanInv s) (hv : s.video = true) : s.syncN = true := by
  obtain ⟨hactive, -, -, -, hhcnt⟩ := h.showing_of_shifting (Bool.and_eq_true_iff.mp hv).1
  have hk2 := h.legal.hsync_le_delay
  rw [scanCycle_eq] at hhcnt
  rw [State.syncN, h.inv.syncWidth_of_active hactive, Bool.not_eq_true', decide_eq_false_iff_not]
  omega

end Scan

/-- The reserved combination of the pins is the only one without a level (R66). -/
theorem compositeLevel_ne_none {syncN video : Bool} (h : video = true → syncN = true) :
    compositeLevel syncN video ≠ none := by
  revert syncN video; decide

/-- Settles O54: the step lemmas for `Inv` and `ScanInv` along the run from reset, and the request since the LWRAP. -/
theorem runsFromResetKeepI1ToI11 : Obligations.RunsFromResetKeepI1ToI11 := by
  intro p fb ins n t hrun
  have hinv : Inv t := inv_run_afterReset hrun
  refine ⟨hinv, hinv.fbRaddr_le, fun m u hm hu hwrap hn => ?request, fun hp => ?legal⟩
  case request =>
    obtain ⟨k, rfl⟩ := Nat.exists_eq_add_of_lt hm
    have hrest : run (k + 1) u = .next t := by rw [← run_add hu, ← hrun, Nat.add_assoc]
    rw [show m + k + 1 - m = k + 1 by omega] at hn
    exact run_requestFollowsLine_of_lwrap (inv_run_afterReset hu) hn hwrap hrest
  case legal =>
    have hscan : ScanInv t := scanInv_run_afterReset hp hrun
    exact ⟨fun h0 => hscan.idle_of_le_delay (h0 ▸ Nat.zero_le _), fun ht => hscan.idle_of_le_delay (trig_iff.mp ht).2.le,
      hscan.syncN_of_video, compositeLevel_ne_none hscan.syncN_of_video⟩

/-! ### The registers of the timing state machine, tick by tick from line 0 (R88, R179) -/

theorem tsmTicks_succ (n : Nat) (r : TsmRegs) : tsmTicks (n + 1) r = tsmTick (tsmTicks n r) := by
  induction n generalizing r with
  | zero => rfl
  | succ n ih => exact ih (tsmTick r)

theorem tsmTicks_line {r : TsmRegs} (h : r.line.toNat ≤ 260) (n : Nat) :
    (tsmTicks n r).line.toNat = (r.line.toNat + n) % 261 := by
  induction n with
  | zero => exact (Nat.mod_eq_of_lt (Nat.lt_succ_of_le h)).symm
  | succ n ih =>
    rw [tsmTicks_succ, tsmTick_line (by omega), ih]
    omega

/-- The request stays 0 through the first frame and is 1 on lines 0 to 24 of every later one (R179). -/
theorem tsmTicks_lpmReq {r : TsmRegs} (hline : r.line.toNat = 0) (hreq : r.lpmReq = false) (n : Nat) :
    (tsmTicks n r).lpmReq = true ↔ 261 ≤ n ∧ n % 261 ≤ 24 := by
  induction n with
  | zero => simp [tsmTicks, hreq]
  | succ n ih =>
    rw [tsmTicks_succ, tsmTick_lpmReq, tsmTicks_line (by omega), hline]
    split_ifs <;> simp only [ih, true_iff, false_iff] <;> omega

/-! ### The line of the time (R173) -/

section Lines

variable {s : State}

/-- Cycle `k` of a line that begins in `s`. -/
theorem run_in_line (h0 : s.hcnt = 0) {k : Nat} (hk : k ≤ s.params.lineLast) (hn : NoReset k s) :
    ∃ t, run k s = .next t ∧ t.hcnt = k ∧ t.tsm = s.tsm := by
  induction k with
  | zero => exact ⟨s, rfl, h0, rfl⟩
  | succ k ih =>
    obtain ⟨u, hu, hhcnt, htsm⟩ := ih (by omega) (hn.mono (by omega))
    have hlt : u.hcnt < u.params.lineLast := by rw [run_params hu, hhcnt]; exact hk
    have hr : u.input.rst = false := (hn.after_run (n := 1) hu).head
    have ht : ¬ u.tick = true := mt tick_iff.mp hlt.ne
    refine ⟨clocked u, run_snoc hu (step_of_not_rst hr), ?_, ?_⟩
    · rw [clocked_hcnt_of_not_tick hlt.le ht, hhcnt]
    · rw [clocked_tsm, if_neg ht, htsm]

/-- A whole line ends with the tick. -/
theorem run_line (h0 : s.hcnt = 0) (hn : NoReset s.params.lineWidth s) :
    ∃ t, run s.params.lineWidth s = .next t ∧ t.hcnt = 0 ∧ t.tsm = tsmTick s.tsm := by
  obtain ⟨u, hu, hhcnt, htsm⟩ := run_in_line h0 le_rfl (hn.mono (Nat.le_succ _))
  have hr : u.input.rst = false := (hn.after_run (n := 1) hu).head
  have ht : u.tick = true := by rw [tick_iff, run_params hu, hhcnt]
  refine ⟨clocked u, run_snoc hu (step_of_not_rst hr), clocked_hcnt_of_tick ht, ?_⟩
  rw [clocked_tsm, if_pos ht, htsm]

theorem run_lines (n : Nat) (h0 : s.hcnt = 0) (hn : NoReset (n * s.params.lineWidth) s) :
    ∃ t, run (n * s.params.lineWidth) s = .next t ∧ t.hcnt = 0 ∧ t.tsm = tsmTicks n s.tsm := by
  induction n with
  | zero => exact ⟨s, by simp, h0, rfl⟩
  | succ n ih =>
    rw [Nat.succ_mul] at hn ⊢
    obtain ⟨u, hu, hhcnt, htsm⟩ := ih (hn.mono (Nat.le_add_right _ _))
    have hp := run_params hu
    obtain ⟨t, ht, hhcnt', htsm'⟩ := run_line hhcnt (hp ▸ hn.after_run hu)
    refine ⟨t, ?_, hhcnt', ?_⟩
    · rw [run_add hu, ← ht, hp]
    · rw [htsm', htsm, tsmTicks_succ]

/-- Cycle `k` of the `n`-th line after the one that begins in `s`. -/
theorem run_lines_add (n : Nat) {k : Nat} (h0 : s.hcnt = 0) (hk : k ≤ s.params.lineLast)
    (hn : NoReset (n * s.params.lineWidth + k) s) :
    ∃ t, run (n * s.params.lineWidth + k) s = .next t ∧ t.hcnt = k ∧ t.tsm = tsmTicks n s.tsm := by
  obtain ⟨u, hu, hhcnt, htsm⟩ := run_lines n h0 (hn.mono (Nat.le_add_right _ _))
  obtain ⟨t, ht, hhcnt', htsm'⟩ := run_in_line hhcnt (run_params hu ▸ hk) (hn.after_run hu)
  exact ⟨t, (run_add hu).trans ht, hhcnt', htsm'.trans htsm⟩

end Lines

/-- Settles O33: the run is at cycle `k` of its line (`run_lines_add`), the line is that of `tsmTicks`, and the flags are
those of the line (I3, I4). -/
theorem timeLineAfterReset : Obligations.TimeLineAfterReset := by
  intro p fb ins n k hk hn
  obtain ⟨t, hrun, hhcnt, htsm⟩ := run_lines_add (s := State.afterReset p fb ins) n rfl (Nat.le_of_lt_succ hk) hn
  have hline : t.line.toNat = n % 261 := by
    rw [← tsm_line, htsm, tsmTicks_line (by simp)]
    simp
  have hreq : t.lpmReq = true ↔ 261 ≤ n ∧ n % 261 ≤ 24 := by
    rw [← tsm_lpmReq, htsm]
    exact tsmTicks_lpmReq rfl rfl n
  have hinv : Inv t := inv_run_afterReset hrun
  refine ⟨t, hrun, hhcnt, hline, hline ▸ hinv.trigEn_iff, ?_, hreq⟩
  rw [hinv.syncWide_iff, hline]
  omega

end Sys2Proof.Machine
end

section
/-! PROOFS. The framebuffer: its two ports (R44 to R47), what a cycle leaves of it (R46, R53, R58), and the way of a byte from
the read port to the pin (R48, R68). -/

namespace Sys2Proof.Machine

/-- Settles O16: the two ports beyond the framebuffer, and I8 for the read address of the block. -/
theorem nothingFromAddress384 : Obligations.NothingFromAddress384 :=
  ⟨fun m _ v ha => ⟨Memory.read_high m ha, Memory.write_high m v ha⟩, fun _ h => h.fbRaddr_le⟩

/-! ### The framebuffer after a cycle -/

theorem fbAfter_of_fbWe {s : State} (h : s.input.fbWe = true) :
    fbAfter s = Memory.write s.fb s.input.fbWaddr s.input.fbWdata := if_pos h

theorem wf_fbAfter {s : State} (h : Memory.wf s.fb = true) : Memory.wf (fbAfter s) = true := by
  unfold fbAfter
  split
  · exact Memory.wf_write h _ _
  · exact h

theorem read_fbAfter_of_not_written {s : State} {a : FbAddr} (h : s.input.fbWe = true → s.input.fbWaddr ≠ a) :
    Memory.read (fbAfter s) a = Memory.read s.fb a := by
  unfold fbAfter
  split
  · next hw => exact Memory.read_write_other s.fb _ (h hw).symm
  · rfl

/-- Settles O51: the list after reset is empty, and every step leaves `fbAfter`. -/
theorem everyStepKeepsTheMemoryForm : Obligations.EveryStepKeepsTheMemoryForm := by
  refine ⟨rfl, fun s t h hstep => ?_⟩
  obtain rfl : after s = t := by simpa [step_eq_after] using hstep
  rw [after_fb]
  exact wf_fbAfter h

/-! ### LOAD reads before the application writes -/

theorem fires_load_iff {s : State} : s.fires .load = true ↔ s.input.rst = false ∧ s.loads := by
  simp [fires_load, seqBusy_iff, and_assoc]

/-- LOAD hands the shifter the byte that the read port answers, whatever the byte index (R103, R111). -/
theorem clocked_shifter_of_load {s : State} (h : s.loads) :
    (clocked s).sr = s.fbRdata ∧ (clocked s).bcnt = 8 ∧ (clocked s).bdiv = 0 := by
  rw [loads_iff] at h
  simp [clocked, h]

/-- Settles O17: the LOAD takes `fbRdata` of the old framebuffer, and the new one holds the byte written. -/
theorem readBeforeWriteInOneCycle : Obligations.ReadBeforeWriteInOneCycle := by
  intro s hwf hload hwrite haddr hle
  obtain ⟨hr, hl⟩ := fires_load_iff.mp hload
  obtain ⟨hsr, -, -⟩ := clocked_shifter_of_load hl
  rw [fires_fbwrite] at hwrite
  refine ⟨clocked s, step_of_not_rst hr, hsr, ?_⟩
  change Memory.read (fbAfter s) s.fbRaddr = _
  rw [fbAfter_of_fbWe hwrite, haddr]
  exact Memory.read_write_same hwf _ (Nat.lt_succ_of_le hle)

/-! ### A byte that is not written -/

/-- What holds of all the inputs to come, and of the idle one, holds of this cycle's input. -/
theorem input_of_forall_take {P : Input → Prop} {n : Nat} {s : State} (hidle : P Input.idle)
    (h : ∀ i ∈ s.inputs.take (n + 1), P i) : P s.input := by
  unfold State.input
  cases hi : s.inputs with
  | nil => exact hidle
  | cons i rest => exact h i (by simp [hi])

theorem forall_take_inputs_after {P : Input → Prop} {n : Nat} {s : State} (h : ∀ i ∈ s.inputs.take (n + 1), P i) :
    ∀ i ∈ (after s).inputs.take n, P i := by
  intro i hi
  cases hs : s.inputs with
  | nil => simp [hs] at hi
  | cons j rest =>
    rw [after_inputs, hs, List.tail_cons] at hi
    exact h i (by simp [hs, hi])

/-- Settles O18, by induction on the cycles: none of them writes the byte (`read_fbAfter_of_not_written`). -/
theorem unwrittenByteKeepsItsValue : Obligations.UnwrittenByteKeepsItsValue := by
  intro n
  induction n with
  | zero => intro s t a _ hrun; cases hrun; rfl
  | succ n ih =>
    intro s t a hfree hrun
    have hinput : s.input.fbWe = true → s.input.fbWaddr ≠ a :=
      input_of_forall_take (P := fun i => i.fbWe = true → i.fbWaddr ≠ a) (by simp [Input.idle]) hfree
    rw [run_succ (step_eq_after s)] at hrun
    rw [ih _ t a (forall_take_inputs_after hfree) hrun, after_fb, read_fbAfter_of_not_written hinput]

/-! ### The bits of a byte on the pin (R48, R105 to R107) -/

section Bits

variable {s : State}

theorem clocked_sr_of_bithold (hc : s.bcnt ≠ 0) (he : ¬ s.bitEnd = true) : (clocked s).sr = s.sr := by
  have hl := not_loads_of_not_bitEnd hc he
  rw [loads_iff] at hl
  simp [clocked, he, hl]

theorem clocked_sr_of_shift (hc : s.bcnt ≠ 0) (he : s.bitEnd = true) (hl : ¬ s.loads) : (clocked s).sr = s.sr <<< 1 := by
  rw [loads_iff] at hl
  simp [clocked, shifting_iff.mpr hc, he, hl]

/-- LOAD waits for the last bit of the byte in the shifter (R104). -/
theorem not_loads_of_two_le_bcnt (h : 2 ≤ s.bcnt.toNat) : ¬ s.loads := by
  rintro ⟨-, hr⟩
  rcases ready_iff.mp hr with h0 | ⟨h1, -⟩
  · simp [h0] at h
  · simp [h1] at h

/-- Within a bit period the bit stays on the pin and `bdiv` counts the cycles (R106). -/
theorem run_within_bit {m : Nat} (hc : s.bcnt ≠ 0) (hm : s.bdiv + m ≤ s.params.bitLast) (hn : NoReset m s) :
    ∃ t, run m s = .next t ∧ t.sr = s.sr ∧ t.bcnt = s.bcnt ∧ t.bdiv = s.bdiv + m := by
  induction m with
  | zero => exact ⟨s, rfl, rfl, rfl, rfl⟩
  | succ m ih =>
    obtain ⟨u, hu, hsr, hbcnt, hbdiv⟩ := ih (by omega) (hn.mono (by omega))
    have hlt : u.bdiv < u.params.bitLast := by rw [run_params hu, hbdiv]; exact hm
    have hcu : u.bcnt ≠ 0 := hbcnt ▸ hc
    have he : ¬ u.bitEnd = true := mt bitEnd_iff.mp hlt.ne
    obtain ⟨hbcnt', hbdiv'⟩ := clocked_of_bithold hcu he hlt.le
    refine ⟨clocked u, run_snoc hu (step_of_not_rst (hn.after_run (n := 1) hu).head), ?_, hbcnt'.trans hbcnt, ?_⟩
    · rw [clocked_sr_of_bithold hcu he, hsr]
    · rw [hbdiv', hbdiv, Nat.add_assoc]

/-- A whole bit period, with another bit to follow (R105). -/
theorem run_bit (hc : 2 ≤ s.bcnt.toNat) (h0 : s.bdiv = 0) (hn : NoReset s.params.bitDiv s) :
    ∃ t, run s.params.bitDiv s = .next t ∧ t.sr = s.sr <<< 1 ∧ t.bcnt.toNat = s.bcnt.toNat - 1 ∧ t.bdiv = 0 := by
  have hne : s.bcnt ≠ 0 := by bv_omega
  obtain ⟨u, hu, hsr, hbcnt, hbdiv⟩ :=
    run_within_bit (m := s.params.bitLast) hne (by omega) (hn.mono (Nat.le_succ _))
  have hcu : u.bcnt ≠ 0 := hbcnt ▸ hne
  have he : u.bitEnd = true := by rw [bitEnd_iff, run_params hu, hbdiv, h0, Nat.zero_add]
  have hl : ¬ u.loads := not_loads_of_two_le_bcnt (hbcnt ▸ hc)
  obtain ⟨hbcnt', hbdiv'⟩ := clocked_of_shift hcu he hl
  refine ⟨clocked u, run_snoc hu (step_of_not_rst (hn.after_run (n := 1) hu).head), ?_, hbcnt ▸ hbcnt', hbdiv'⟩
  rw [clocked_sr_of_shift hcu he hl, hsr]

/-- As many bit periods as leave a bit in the shifter. -/
theorem run_bits {j : Nat} (hj : j < s.bcnt.toNat) (h0 : s.bdiv = 0) (hn : NoReset (j * s.params.bitDiv) s) :
    ∃ t, run (j * s.params.bitDiv) s = .next t ∧ t.sr = s.sr <<< j ∧ t.bcnt.toNat = s.bcnt.toNat - j ∧ t.bdiv = 0 := by
  induction j with
  | zero => exact ⟨s, by simp, by simp, rfl, h0⟩
  | succ j ih =>
    rw [Nat.succ_mul] at hn ⊢
    obtain ⟨u, hu, hsr, hbcnt, hbdiv⟩ := ih (by omega) (hn.mono (Nat.le_add_right _ _))
    have hp := run_params hu
    obtain ⟨t, ht, hsr', hbcnt', hbdiv'⟩ := run_bit (by omega) hbdiv (hp ▸ hn.after_run hu)
    refine ⟨t, ?_, ?_, by omega, hbdiv'⟩
    · rw [run_add hu, ← ht, hp]
    · rw [hsr', hsr, BitVec.shiftLeft_add]

/-- Bit period `j` of a shifter that has just begun a bit shows the bit `j` places below the top one (R107). -/
theorem run_bits_video {j d : Nat} (hj : j < s.bcnt.toNat) (hj8 : j < 8) (hd : d < s.params.bitDiv) (h0 : s.bdiv = 0)
    (hn : NoReset (j * s.params.bitDiv + d) s) :
    ∃ t, run (j * s.params.bitDiv + d) s = .next t ∧ t.video = s.sr.getLsbD (7 - j) := by
  obtain ⟨u, hu, hsr, hbcnt, hbdiv⟩ := run_bits hj h0 (hn.mono (Nat.le_add_right _ _))
  have hcu : u.bcnt ≠ 0 := by bv_omega
  have hdu : u.bdiv + d ≤ u.params.bitLast := by
    rw [run_params hu, hbdiv, Nat.zero_add]
    exact Nat.le_of_lt_succ hd
  obtain ⟨t, ht, hsr', hbcnt', -⟩ := run_within_bit hcu hdu (hn.after_run hu)
  have hshift : t.shifting = true := shifting_iff.mpr (hbcnt' ▸ hcu)
  refine ⟨t, (run_add hu).trans ht, ?_⟩
  rw [State.video, hshift, hsr', hsr, BitVec.getLsbD_shiftLeft]
  simp [Nat.not_lt_of_le (Nat.le_of_lt_succ hj8)]

end Bits

/-- Settles O46: LOAD fills the shifter with the byte read, and from the next cycle on its bits follow one another
(`run_bits_video`). -/
theorem byteOnTheWire : Obligations.ByteOnTheWire := by
  intro s j d hload hj hd hn
  obtain ⟨hr, hl⟩ := fires_load_iff.mp hload
  obtain ⟨hsr, hbcnt, hbdiv⟩ := clocked_shifter_of_load hl
  have hstep : step s = .next (clocked s) := step_of_not_rst hr
  rw [Nat.add_assoc] at hn ⊢
  have hrest : NoReset (j * s.params.bitDiv + d) (clocked s) := hn.after_run (run_succ hstep)
  obtain ⟨t, ht, hvideo⟩ := run_bits_video (s := clocked s) (by simp [hbcnt, hj]) hj hd hbdiv hrest
  refine ⟨t, (run_add (run_succ hstep)).trans ht, ?_⟩
  rw [hvideo, hsr]
  rfl

end Sys2Proof.Machine
end

section
/-! PROOFS. Selection and its encoder (R62 to R64): the set that a control word selects keeps the groups of R63, and the
words of a set that keeps them select the set. -/

namespace Sys2Proof

/-! ### How many of a group are in a set -/

@[simp] theorem WellFormed.countOf_nil (ops : List Instr) : WellFormed.countOf [] ops = 0 := rfl

@[simp] theorem WellFormed.countOf_cons (i : Instr) (group ops : List Instr) :
    WellFormed.countOf (i :: group) ops = (ops.contains i).toNat + WellFormed.countOf group ops := by
  unfold WellFormed.countOf
  rw [List.filter_cons]
  cases ops.contains i
  · simp
  · simp [Nat.add_comm]

theorem wellFormed_iff (ops : List Instr) : wellFormed ops = true ↔
    WellFormed.oneTimer ops = true ∧ WellFormed.oneTrigger ops = true ∧ WellFormed.oneSequencer ops = true ∧
    WellFormed.oneShifter ops = true ∧ WellFormed.startNeedsIdle ops = true ∧ WellFormed.dropNeedsBusy ops = true ∧
    WellFormed.resetAlone ops = true ∧ WellFormed.oneLineOp ops = true := by
  simp [wellFormed, and_assoc]

/-! ### The control word of a well-formed set (R63) -/

section EncodeControl

variable {ops : List Instr}

/-- RESET, HCOUNT and TICK: the timer's group is told apart by `rst` and `tick`. -/
theorem matches_encodeControl_timer (htimer : WellFormed.oneTimer ops = true) :
    matchesControl (encodeControl ops) .hcount = ops.contains .hcount ∧
    matchesControl (encodeControl ops) .tick = ops.contains .tick := by
  simp only [WellFormed.oneTimer, WellFormed.countOf_cons, WellFormed.countOf_nil] at htimer
  simp only [encodeControl, matches_hcount, matches_tick]
  generalize ops.contains .reset = r, ops.contains .hcount = h, ops.contains .tick = t at *
  revert r h t; decide

/-- START, TRIGDROP, LOAD and WAIT: by `trig`, `seq_busy` and `ready`. -/
theorem matches_encodeControl_sequencer (htrig : WellFormed.oneTrigger ops = true)
    (hseq : WellFormed.oneSequencer ops = true) (hstart : WellFormed.startNeedsIdle ops = true)
    (hdrop : WellFormed.dropNeedsBusy ops = true) (hreset : WellFormed.resetAlone ops = true) :
    matchesControl (encodeControl ops) .start = ops.contains .start ∧
    matchesControl (encodeControl ops) .trigdrop = ops.contains .trigdrop ∧
    matchesControl (encodeControl ops) .load = ops.contains .load ∧
    matchesControl (encodeControl ops) .wait = ops.contains .wait := by
  simp only [WellFormed.oneTrigger, WellFormed.oneSequencer, WellFormed.startNeedsIdle, WellFormed.dropNeedsBusy,
    WellFormed.resetAlone, WellFormed.countOf_cons, WellFormed.countOf_nil] at htrig hseq hstart hdrop hreset
  simp only [encodeControl, matches_start, matches_trigdrop, matches_load, matches_wait]
  generalize ops.contains .reset = r, ops.contains .start = g, ops.contains .trigdrop = d, ops.contains .load = l,
    ops.contains .wait = w, ops.contains .shift = x, ops.contains .bithold = y at *
  revert r g d l w x y; decide

/-- SHIFT and BITHOLD: by `shifting` and `bit_end`. -/
theorem matches_encodeControl_shifter (hshift : WellFormed.oneShifter ops = true)
    (hreset : WellFormed.resetAlone ops = true) :
    matchesControl (encodeControl ops) .shift = ops.contains .shift ∧
    matchesControl (encodeControl ops) .bithold = ops.contains .bithold := by
  simp only [WellFormed.oneShifter, WellFormed.resetAlone, WellFormed.countOf_cons, WellFormed.countOf_nil]
    at hshift hreset
  simp only [encodeControl, matches_shift, matches_bithold]
  generalize ops.contains .reset = r, ops.contains .start = g, ops.contains .trigdrop = d, ops.contains .load = l,
    ops.contains .wait = w, ops.contains .shift = x, ops.contains .bithold = y at *
  revert r g d l w x y; decide

/-- The control word of a well-formed set matches the rows of its operations of format C and no other. -/
theorem matches_encodeControl (h : wellFormed ops = true) {i : Instr} (hi : (encodingRow i).format = .C) :
    matchesControl (encodeControl ops) i = ops.contains i := by
  obtain ⟨htimer, htrig, hseq, hshift, hstart, hdrop, hreset, -⟩ := (wellFormed_iff ops).mp h
  obtain ⟨hhcount, htick⟩ := matches_encodeControl_timer htimer
  obtain ⟨hstart', hdrop', hload, hwait⟩ := matches_encodeControl_sequencer htrig hseq hstart hdrop hreset
  obtain ⟨hshift', hhold⟩ := matches_encodeControl_shifter hshift hreset
  cases i
  case reset => exact matches_reset ..
  case fbwrite => exact matches_fbwrite ..
  case hcount => exact hhcount
  case tick => exact htick
  case start => exact hstart'
  case trigdrop => exact hdrop'
  case load => exact hload
  case wait => exact hwait
  case shift => exact hshift'
  case bithold => exact hhold
  all_goals cases hi

end EncodeControl

/-! ### The number of a set's operation of format L (R64) -/

theorem mem_lineGroup_iff (i : Instr) : i ∈ WellFormed.lineGroup ↔ (encodingRow i).format = .L := by
  cases i <;> decide

/-- The number of a set with one operation of format L selects it. -/
theorem decodeLine_encodeLine {ops : List Instr} {j : Instr} (hj : j ∈ WellFormed.lineGroup)
    (hone : ∀ i ∈ WellFormed.lineGroup, i ∈ ops ↔ i = j) : decodeLine (encodeLine ops) = j := by
  simp only [WellFormed.lineGroup, List.forall_mem_cons] at hone
  obtain ⟨hwake, harm, hdisarm, hvsync, hhsync, hwrap, -⟩ := hone
  simp only [encodeLine, List.contains_iff_mem, hwake, harm, hdisarm, hvsync, hhsync, hwrap]
  clear * - hj
  revert j; decide

/-- With TICK a well-formed set has one operation of format L, without it none (R64). -/
theorem mem_iff_of_oneLineOp {ops : List Instr} (h : WellFormed.oneLineOp ops = true) {i : Instr}
    (hi : i ∈ WellFormed.lineGroup) : i ∈ ops ↔ .tick ∈ ops ∧ decodeLine (encodeLine ops) = i := by
  have hmem : ∀ k ∈ WellFormed.lineGroup, k ∈ ops ↔ k ∈ WellFormed.lineGroup.filter fun k => ops.contains k :=
    fun k hk => by simp [hk]
  simp only [WellFormed.oneLineOp, WellFormed.countOf, beq_iff_eq, List.contains_iff_mem] at h
  split at h
  · next ht =>
    obtain ⟨j, hj⟩ := List.length_eq_one_iff.mp h
    have hone : ∀ k ∈ WellFormed.lineGroup, k ∈ ops ↔ k = j := fun k hk => by rw [hmem k hk, hj, List.mem_singleton]
    have hjmem : j ∈ WellFormed.lineGroup := List.mem_of_mem_filter (hj ▸ List.mem_singleton_self j)
    rw [decodeLine_encodeLine hjmem hone, hone i hi]
    simp [ht, eq_comm]
  · next ht =>
    rw [hmem i hi, List.eq_nil_of_length_eq_zero h]
    simp [ht]

/-- Settles O3: an operation of format C by its row (`matches_encodeControl`), one of format L by TICK and its number
(`mem_iff_of_oneLineOp`). -/
theorem encodedSelectionDecodesBack : Obligations.EncodedSelectionDecodesBack := by
  intro ops h i
  change i ∈ decode (encodeControl ops) (encodeLine ops) ↔ _
  cases hi : (encodingRow i).format
  case C => rw [mem_decode_control hi, matches_encodeControl h hi, List.contains_iff_mem]
  case L =>
    obtain ⟨-, -, -, -, -, -, -, hline⟩ := (wellFormed_iff ops).mp h
    rw [mem_decode_line hi, matches_encodeControl h rfl, List.contains_iff_mem,
      ← mem_iff_of_oneLineOp hline ((mem_lineGroup_iff i).mpr hi)]

/-! ### The operations a control word selects (R63) -/

/-- A row of R63 as the spec prints it. -/
theorem mem_decode_iff_row {cw : ControlWord} {n : Nat} {i : Instr} (h : (encodingRow i).format = .C) :
    i ∈ decode cw n ↔ cw &&& BitVec.ofNat 8 (encodingRow i).mask = BitVec.ofNat 8 (encodingRow i).pat :=
  (mem_decode_control h).trans beq_iff_eq

theorem contains_decode_control (cw : ControlWord) (n : Nat) {i : Instr} (h : (encodingRow i).format = .C) :
    (decode cw n).contains i = matchesControl cw i := by
  rw [Bool.eq_iff_iff, List.contains_iff_mem, mem_decode_control h]

theorem contains_decode_line (cw : ControlWord) (n : Nat) {i : Instr} (h : (encodingRow i).format = .L) :
    (decode cw n).contains i = (matchesControl cw .tick && decide (decodeLine n = i)) := by
  rw [Bool.eq_iff_iff, List.contains_iff_mem, mem_decode_line h]
  simp

/-- One operation of format L with TICK, whatever its number (R64). -/
theorem oneLineOp_decode (cw : ControlWord) (n : Nat) : WellFormed.oneLineOp (decode cw n) = true := by
  have hmem : decodeLine n ∈ WellFormed.lineGroup := (mem_lineGroup_iff _).mpr (decodeLine_format n)
  simp (disch := decide) only [WellFormed.oneLineOp, WellFormed.lineGroup, WellFormed.countOf_cons,
    WellFormed.countOf_nil, contains_decode_control, contains_decode_line]
  generalize matchesControl cw .tick = t, decodeLine n = j at *
  revert t j; decide

section Groups

variable (r t g b y h e w : Bool) (n : Nat)

/-- RESET, HCOUNT and TICK read `rst` and `tick`. -/
theorem oneTimer_decode : WellFormed.oneTimer (decode (controlBits r t g b y h e w) n) = true := by
  simp (disch := decide) only [WellFormed.oneTimer, WellFormed.countOf_cons, WellFormed.countOf_nil,
    contains_decode_control, matches_reset, matches_hcount, matches_tick]
  revert r t; decide

/-- START, TRIGDROP, LOAD and WAIT read `rst`, `trig`, `seq_busy` and `ready`. -/
theorem sequencerGroups_decode :
    WellFormed.oneTrigger (decode (controlBits r t g b y h e w) n) = true ∧
    WellFormed.oneSequencer (decode (controlBits r t g b y h e w) n) = true ∧
    WellFormed.startNeedsIdle (decode (controlBits r t g b y h e w) n) = true ∧
    WellFormed.dropNeedsBusy (decode (controlBits r t g b y h e w) n) = true := by
  simp (disch := decide) only [WellFormed.oneTrigger, WellFormed.oneSequencer, WellFormed.startNeedsIdle,
    WellFormed.dropNeedsBusy, WellFormed.countOf_cons, WellFormed.countOf_nil, contains_decode_control, matches_start,
    matches_trigdrop, matches_load, matches_wait]
  revert r g b y; decide

/-- SHIFT and BITHOLD read `rst`, `shifting` and `bit_end`. -/
theorem oneShifter_decode : WellFormed.oneShifter (decode (controlBits r t g b y h e w) n) = true := by
  simp (disch := decide) only [WellFormed.oneShifter, WellFormed.countOf_cons, WellFormed.countOf_nil,
    contains_decode_control, matches_shift, matches_bithold]
  revert r h e; decide

/-- Every row of the serializer asks for `rst` 0. -/
theorem resetAlone_decode : WellFormed.resetAlone (decode (controlBits r t g b y h e w) n) = true := by
  simp (disch := decide) only [WellFormed.resetAlone, WellFormed.countOf_cons, WellFormed.countOf_nil,
    contains_decode_control, matches_reset, matches_start, matches_trigdrop, matches_load, matches_wait, matches_shift,
    matches_bithold]
  cases r <;> simp

end Groups

/-- Every selected set keeps the groups of R63 and R64. -/
theorem wellFormed_decode (cw : ControlWord) (n : Nat) : wellFormed (decode cw n) = true := by
  rw [wellFormed_iff, ← Machine.controlBits_getLsbD cw]
  obtain ⟨htrig, hseq, hstart, hdrop⟩ := sequencerGroups_decode _ _ _ _ _ _ _ _ n
  exact ⟨oneTimer_decode .., htrig, hseq, oneShifter_decode .., hstart, hdrop, resetAlone_decode ..,
    oneLineOp_decode ..⟩

/-- Settles O1: the rows by `mem_decode_iff_row`, the groups by `wellFormed_decode`, and a LOAD writes the shifter
whatever SHIFT does (`clocked_shifter_of_load`). -/
theorem controlRowsAndGroups : Obligations.ControlRowsAndGroups := by
  intro cw n
  refine ⟨mem_decode_iff_row rfl, mem_decode_iff_row rfl, mem_decode_iff_row rfl, mem_decode_iff_row rfl,
    mem_decode_iff_row rfl, mem_decode_iff_row rfl, mem_decode_iff_row rfl, mem_decode_iff_row rfl,
    mem_decode_iff_row rfl, mem_decode_iff_row rfl, wellFormed_decode cw n, ?_⟩
  rintro s rfl hload -
  have hfires : s.fires .load = true := by rwa [Machine.fires_control s rfl, ← mem_decode_control rfl]
  obtain ⟨hr, hl⟩ := Machine.fires_load_iff.mp hfires
  exact ⟨Machine.clocked s, Machine.step_of_not_rst hr, Machine.clocked_shifter_of_load hl⟩

/-! ### The operation of format L of a state (R64) -/

theorem Machine.fires_lstep_iff {s : Machine.State} : s.fires .lstep = true ↔
    s.fires .tick = true ∧ s.line.toNat + 1 ∉ [25, 29, 221, 247, 249, 261] := by
  simp [Machine.fires_line_iff s (i := .lstep) rfl, decodeLine_eq_iff, Machine.State.lnext]

/-- Settles O2, operation by operation. -/
theorem lineRowsByTheNextNumber : Obligations.LineRowsByTheNextNumber := fun _ =>
  ⟨Machine.fires_lwake_iff, Machine.fires_larm_iff, Machine.fires_ldisarm_iff, Machine.fires_lvsync_iff,
    Machine.fires_lhsync_iff, Machine.fires_lwrap_iff, Machine.fires_lstep_iff⟩

/-- Settles O5: thirteen closed words. -/
theorem printedWordsSelect : Obligations.PrintedWordsSelect := by
  unfold Obligations.PrintedWordsSelect
  decide

end Sys2Proof
end

section
/-! PROOFS. The stimuli: the input word of a cycle (R72) and the cycles of CLEAR (R73). -/

namespace Sys2Proof.Machine

/-! ### The input word (R72) -/

theorem toNat_append_eq_add {m n : Nat} (x : BitVec m) (y : BitVec n) : (x ++ y).toNat = x.toNat * 2 ^ n + y.toNat := by
  rw [BitVec.toNat_append, ← Nat.shiftLeft_add_eq_or_of_lt y.isLt, Nat.shiftLeft_eq]

/-- The fields of the word at their places. -/
theorem Input.toWord_toNat (i : Input) : i.toWord.toNat =
    i.rst.toNat * 0x40000 + i.fbWe.toNat * 0x20000 + i.fbWaddr.toNat * 256 + i.fbWdata.toNat := by
  have happ : i.toWord.toNat =
      ((i.rst.toNat * 2 + i.fbWe.toNat) * 2 ^ 9 + i.fbWaddr.toNat) * 2 ^ 8 + i.fbWdata.toNat := by
    refine (toNat_append_eq_add (BitVec.ofBool i.rst ++ BitVec.ofBool i.fbWe ++ i.fbWaddr) i.fbWdata).trans ?_
    simp only [toNat_append_eq_add, BitVec.toNat_ofBool, Nat.pow_one]
  rw [happ]
  ring

/-- No two inputs have the same word. -/
theorem Input.toWord_injective : Function.Injective Input.toWord := by
  rintro ⟨r, w, a, d⟩ ⟨r', w', a', d'⟩ h
  have hsum := congrArg BitVec.toNat h
  simp only [Input.toWord_toNat] at hsum
  have hlt := Bool.toNat_lt r
  have hlt' := Bool.toNat_lt r'
  have hwlt := Bool.toNat_lt w
  have hwlt' := Bool.toNat_lt w'
  obtain ⟨hr, hw, ha, hd⟩ : r.toNat = r'.toNat ∧ w.toNat = w'.toNat ∧ a.toNat = a'.toNat ∧ d.toNat = d'.toNat := by
    omega
  have hbool : Function.Injective Bool.toNat := Function.LeftInverse.injective Bool.ofNat_toNat
  rw [hbool hr, hbool hw, BitVec.eq_of_toNat_eq ha, BitVec.eq_of_toNat_eq hd]

/-- The fields read from a word and put together again. -/
theorem Input.toWord_ofWord (w : BitVec 19) : (Input.ofWord w).toWord = w := by
  apply BitVec.eq_of_toNat_eq
  rw [Input.toWord_toNat]
  simp only [Input.ofWord, ← BitVec.testBit_toNat, Nat.toNat_testBit, BitVec.extractLsb'_toNat,
    Nat.shiftRight_eq_div_pow]
  omega

theorem Input.ofWord_toWord (i : Input) : Input.ofWord i.toWord = i :=
  Input.toWord_injective (Input.toWord_ofWord i.toWord)

/-- The word of the statement FBW (R72). -/
theorem fbwWord_eq_toWord (a : FbAddr) (v : Byte) : fbwWord a v = Input.toWord ⟨false, true, a, v⟩ := by
  have ha := a.isLt
  have hv := v.isLt
  apply BitVec.eq_of_toNat_eq
  simp only [Input.toWord_toNat, fbwWord, BitVec.toNat_ofNat, Bool.toNat_false, Bool.toNat_true]
  omega

theorem ofWord_fbwWord (a : FbAddr) (v : Byte) : Input.ofWord (fbwWord a v) = ⟨false, true, a, v⟩ := by
  rw [fbwWord_eq_toWord, Input.ofWord_toWord]

/-- Settles O4: the two readings are inverse to each other, the sum of the fields is `Input.toWord_toNat`, and the word of
FBW is that of its input (`fbwWord_eq_toWord`). -/
theorem inputWordRoundTrip : Obligations.InputWordRoundTrip :=
  ⟨Input.ofWord_toWord, Input.toWord_ofWord, Input.toWord_toNat,
    fun _ a v => congrArg (fun i => [i]) (ofWord_fbwWord a v), fun _ => rfl, fun _ _ => List.map_replicate⟩

/-! ### CLEAR (R73) -/

/-- The framebuffer after writes of one byte to these addresses, one after another. -/
def Memory.writeAll (v : Byte) (m : List Host.Cell) (as : List FbAddr) : List Host.Cell :=
  as.foldl (fun m a => Memory.write m a v) m

/-- An address written, or holding the byte before, holds it after. -/
theorem Memory.read_writeAll (v : Byte) {m : List Host.Cell} (h : Memory.wf m = true) (as : List FbAddr) {a : FbAddr}
    (ha : a.toNat < Config.fbBytes) (hm : a ∈ as ∨ Memory.read m a = v) :
    Memory.read (Memory.writeAll v m as) a = v := by
  induction as generalizing m with
  | nil => simpa [Memory.writeAll] using hm
  | cons b as ih =>
    refine ih (Memory.wf_write h b v) ?_
    by_cases hab : a = b
    · subst hab
      exact .inr (Memory.read_write_same h v ha)
    · rw [Memory.read_write_other m v hab]
      simpa [hab] using hm

/-- A cycle for each of the words `FBW a, v`. -/
theorem runWords_fbw (v : Byte) (as : List FbAddr) (s : State) :
    ∃ t, runWords (as.map fun a => fbwWord a v) s = .next t ∧ t.fb = Memory.writeAll v s.fb as := by
  induction as generalizing s with
  | nil => exact ⟨_, rfl, rfl⟩
  | cons a as ih =>
    obtain ⟨t, ht, hfb⟩ := ih (after { s with inputs := [Input.ofWord (fbwWord a v)] })
    refine ⟨t, ?_, hfb.trans ?_⟩
    · rw [List.map_cons, runWords, step_eq_after]
      exact ht
    · rw [after_fb, ofWord_fbwWord]
      rfl

/-- The addresses of CLEAR, 0 to 383. -/
def clearAddrs : List FbAddr := (List.range 384).map (BitVec.ofNat 9)

theorem clear_words (p : Params) : Stimulus.clear.words p = clearAddrs.map fun a => fbwWord a 0 := by
  simp [Stimulus.words, clearAddrs]

theorem mem_clearAddrs {a : FbAddr} (h : a.toNat < Config.fbBytes) : a ∈ clearAddrs :=
  List.mem_map.mpr ⟨a.toNat, List.mem_range.mpr h, by simp⟩

/-- Settles O19: below address 384 the byte is among those written (`mem_clearAddrs`), above it a read gives 0x00. -/
theorem clearLeavesEveryByteDark : Obligations.ClearLeavesEveryByteDark := by
  intro s hwf
  rw [clear_words]
  obtain ⟨t, ht, hfb⟩ := runWords_fbw 0 clearAddrs s
  refine ⟨by simp [clearAddrs], t, ht, fun a => ?_⟩
  rcases Nat.lt_or_ge a.toNat Config.fbBytes with ha | ha
  · rw [hfb]
    exact Memory.read_writeAll 0 hwf _ ha (.inl (mem_clearAddrs ha))
  · exact Memory.read_high t.fb ha

end Sys2Proof.Machine
end

section
/-! PROOFS. The outputs of a line: the phase port (R65), and the row on the video pin (R68, R108). -/

namespace Sys2Proof.Machine

theorem phasePort_eq_phaseCode {s : State} {ph : Phase} (h : phaseOf s.line.toNat = some ph) :
    s.phasePort = phaseCode ph := by rw [State.phasePort, h]

/-- There are six codes. -/
theorem phaseCode_ne_reserved (ph : Phase) : phaseCode ph ≠ 6 ∧ phaseCode ph ≠ 7 := by cases ph <;> decide

/-- Every line of the frame is in a phase (R24). -/
theorem exists_phaseOf {n : Nat} (h : n ≤ 260) : ∃ ph, phaseOf n = some ph := by
  unfold phaseOf
  split_ifs <;> exact ⟨_, rfl⟩

/-- Settles O35: by I2 the line is in a phase, and the port shows the code of that phase. -/
theorem phasePortByLine : Obligations.PhasePortByLine := by
  intro s h
  obtain ⟨ph, hph⟩ := exists_phaseOf h.line_le
  rw [phasePort_eq_phaseCode hph]
  refine ⟨?_, phaseCode_ne_reserved ph⟩
  unfold phaseOf at hph
  split_ifs at hph ⊢ <;> cases hph <;> rfl

/-- If `q` periods of `D` cycles and `r + 1` cycles of the next one are `n` periods, the next one is over. -/
theorem last_cycle_of_period {q r D n : Nat} (hr : r < D) (h : q * D + r + 1 = n * D) : q + 1 = n ∧ r + 1 = D := by
  have hlt : q < n := by
    by_contra hge
    have := Nat.mul_le_mul_right D (Nat.le_of_not_lt hge)
    omega
  have hle := Nat.mul_le_mul_right D (Nat.succ_le_of_lt hlt)
  rw [Nat.succ_mul] at hle
  have hend : r + 1 = D := by omega
  refine ⟨Nat.eq_of_mul_eq_mul_right (Nat.zero_lt_of_lt hr) ?_, hend⟩
  rw [← h, Nat.succ_mul, Nat.add_assoc, hend]

section Scan

variable {s : State}

/-- Outside the picture of a line the pin is dark (R108, R126). -/
theorem ScanInv.video_eq_false (h : ScanInv s) (hout : s.hcnt ≤ s.params.pictureDelay + 1 ∨
    s.params.pictureDelay + 2 + 64 * s.params.bitDiv ≤ s.hcnt) : s.video = false := by
  refine Bool.eq_false_iff.mpr fun hv => ?_
  obtain ⟨-, -, -, hc, hhcnt⟩ := h.showing_of_shifting (Bool.and_eq_true_iff.mp hv).1
  have hlt := h.inv.scanCycle_lt hc
  rw [← hhcnt] at hlt
  rw [scanCycle_eq] at hhcnt
  omega

/-- LOAD of byte `k` fires in cycle `PICTURE_DELAY + 1 + 8 * k * BIT_DIV` of an active line (R108). -/
theorem ScanInv.loads_of_hcnt (h : ScanInv s) (ha : s.active) {k : Nat} (hk : k < 8)
    (hhcnt : s.hcnt = s.params.pictureDelay + 1 + 8 * k * s.params.bitDiv) :
    s.loads ∧ s.bidx.toNat = k ∧ s.row = rowIndex s.line := by
  have hpos : 0 < s.params.bitDiv := Nat.succ_pos _
  rcases h.position with ⟨-, hrest⟩ | ⟨-, hrow, hbidx, hbcnt, hfirst⟩ | ⟨-, hrow, hb, hc, hcycle⟩
  · have hlast : 8 * k * s.params.bitDiv ≤ 56 * s.params.bitDiv := Nat.mul_le_mul_right _ (by omega)
    have := hrest ha
    omega
  · have hzero : k = 0 := by
      have : 8 * k * s.params.bitDiv = 0 := by omega
      simpa [hpos.ne'] using this
    exact ⟨⟨by simp [hbidx], ready_iff.mpr (.inl hbcnt)⟩, by simp [hbidx, hzero], hrow⟩
  · rw [scanCycle_eq] at hcycle
    have hdiv : s.bdiv < s.params.bitDiv := Nat.lt_succ_of_le h.inv.bdiv_le
    obtain ⟨hbits, hend⟩ := last_cycle_of_period (q := s.bitsOver) (n := 8 * k) hdiv (by omega)
    have hle := h.inv.bcnt_le
    unfold State.bitsOver at hbits
    obtain ⟨hlast, hbyte⟩ : s.bcnt.toNat = 1 ∧ s.bidx.toNat = k := by omega
    have hready : s.ready = true := ready_iff.mpr (.inr ⟨BitVec.eq_of_toNat_eq hlast, Nat.succ.inj hend⟩)
    have hbusy : s.bidx ≠ 8 := by bv_omega
    exact ⟨⟨hbusy, hready⟩, hbyte, hrow⟩

/-- In cycle `c` of a line that begins in `s` the scan position holds. -/
theorem ScanInv.run_in_line (h : ScanInv s) (h0 : s.hcnt = 0) (c : Nat) (hc : c ≤ s.params.lineLast)
    (hn : NoReset c s) :
    ∃ u, run c s = .next u ∧ ScanInv u ∧ u.hcnt = c ∧ u.line = s.line ∧ u.params = s.params := by
  obtain ⟨u, hu, hhcnt, htsm⟩ := Machine.run_in_line h0 hc hn
  exact ⟨u, hu, run_keeps everyStepKeepsTheScanPosition h hu, hhcnt, congrArg TsmRegs.line htsm, run_params hu⟩

/-- The byte read in the LOAD of byte `k` is byte `k` of the row of the line (R25, R67, R108). -/
theorem Inv.read_fbRaddr_of_row (h : Inv s) (ha : s.active) (hrow : s.row = rowIndex s.line) {k : Nat} (hk : k < 8)
    (hb : s.bidx.toNat = k) : Memory.read s.fb s.fbRaddr = Memory.byteAt s.fb ((s.line.toNat - 29) / 4 * 8 + k) := by
  obtain ⟨-, hread⟩ := readAddressIsInTheFramebuffer s h
  obtain ⟨hlo, hhi⟩ := ha
  rw [show (s.line.toNat - 29) / 4 * 8 + k = s.row.toNat * 8 + s.bidx.toNat % 8 by
    rw [hrow, rowIndex_toNat hlo, hb]; omega]
  exact hread

end Scan

/-- Settles O57: the LOAD of byte `b / 8` fires in its cycle of the line (`ScanInv.loads_of_hcnt`) and puts that byte of
the row on the pin (`byteOnTheWire`); outside the picture the pin is dark (`ScanInv.video_eq_false`). -/
theorem rowOnTheWire : Obligations.RowOnTheWire := by
  intro s h ha h0 hn
  have hbudget : s.params.pictureDelay + 2 + 64 * s.params.bitDiv ≤ s.params.lineLast + 1 := h.legal.budget
  refine ⟨fun b d hb hd => ?bit, fun c t hc hrun => ?dark⟩
  case bit =>
    have hk : b / 8 < 8 := by omega
    have hj : b % 8 < 8 := by omega
    have hcycle : s.params.pictureDelay + 2 + b * s.params.bitDiv + d =
        s.params.pictureDelay + 1 + 8 * (b / 8) * s.params.bitDiv + (1 + b % 8 * s.params.bitDiv + d) := by
      conv_lhs => rw [← Nat.div_add_mod b 8]
      ring
    have hline : s.params.pictureDelay + 2 + b * s.params.bitDiv + d ≤ s.params.lineLast := by
      have := Nat.mul_le_mul_right s.params.bitDiv (Nat.succ_le_of_lt hb)
      rw [Nat.succ_mul] at this
      omega
    rw [hcycle] at hline ⊢
    obtain ⟨u, hu, hscan, hhcnt, hl, hp⟩ := h.run_in_line h0
      (s.params.pictureDelay + 1 + 8 * (b / 8) * s.params.bitDiv) (by omega) (hn.mono (by omega))
    have hau : u.active := by rwa [State.active, hl]
    obtain ⟨hloads, hbidx, hrow⟩ := hscan.loads_of_hcnt hau hk (hp ▸ hhcnt)
    have hrest : NoReset (1 + b % 8 * u.params.bitDiv + d) u := hp ▸ (hn.mono hline).after_run hu
    have hfires : u.fires .load = true := fires_load_iff.mpr ⟨(hrest.mono (m := 1) (by omega)).head, hloads⟩
    obtain ⟨t, ht, hvideo⟩ := byteOnTheWire u (b % 8) d hfires hj (hp ▸ hd) hrest
    rw [hscan.inv.read_fbRaddr_of_row hau hrow hk hbidx, hl] at hvideo
    exact ⟨u, t, hu, hfires, (run_add hu).trans (hp ▸ ht), hvideo, hvideo⟩
  case dark =>
    have hle : c ≤ s.params.lineLast := by omega
    obtain ⟨u, hu, hscan, hhcnt, -, hp⟩ := h.run_in_line h0 c hle (hn.mono hle)
    obtain rfl : u = t := by simpa [hu] using hrun
    refine hscan.video_eq_false ?_
    rw [hp, hhcnt]
    omega

end Sys2Proof.Machine
end

section
/-! PROOFS. The timing state machine (R80 to R91): the tick function, the seven operations of format L, and the frame. -/

namespace Sys2Proof.Machine

/-! ### The tick function (R91) -/

theorem lineNext_eq_ofNat {l : LineNum} (h : l.toNat < 511) : lineNext l = BitVec.ofNat 9 (l.toNat + 1) := by
  refine BitVec.eq_of_toNat_eq ?_
  rw [lineNext_toNat h, BitVec.toNat_ofNat, Nat.mod_eq_of_lt (by omega)]

/-- Settles O24: the printed branches are those of `tsmTick`, with `lineNext` as a sum of nine bits, and a cycle without
reset applies it in a tick alone (`clocked_tsm`). -/
theorem tickFunctionIsTheBlocks : Obligations.TickFunctionIsTheBlocks := by
  refine ⟨fun r h => ?_, fun s hr => ⟨clocked s, step_of_not_rst hr, ?_⟩⟩
  · rw [tsmTick, lineNext_eq_ofNat h]
  · simp only [clocked_tsm, tick_iff]

/-! ### The cycle in which an operation of format L fires -/

section LineCycle

variable {s : State}

theorem fires_tick_iff : s.fires .tick = true ↔ s.input.rst = false ∧ s.hcnt = s.params.lineLast := by
  simp [fires_tick, tick_iff]

/-- The cycle ends the line, and leaves in the four registers of the timing state machine what the operation gives. -/
theorem step_of_fires_line {i : Instr} (hi : (encodingRow i).format = .L) (h : s.fires i = true) :
    step s = .next (clocked s) ∧ (clocked s).hcnt = 0 ∧ (clocked s).line = (effect i s).line ∧
      (clocked s).trigEn = (effect i s).trigEn ∧ (clocked s).syncWide = (effect i s).syncWide ∧
      (clocked s).lpmReq = (effect i s).lpmReq := by
  rw [fires_line_iff s hi, Bool.and_eq_true, decide_eq_true_iff] at h
  obtain ⟨htick, rfl⟩ := h
  obtain ⟨hr, hend⟩ := fires_tick_iff.mp htick
  have ht : s.tick = true := tick_iff.mpr hend
  have htsm : (clocked s).tsm = (effect (decodeLine s.lnext) s).tsm := by
    rw [clocked_tsm, if_pos ht, effect_decodeLine_tsm]
  exact ⟨step_of_not_rst hr, clocked_hcnt_of_tick ht, congrArg TsmRegs.line htsm, congrArg TsmRegs.trigEn htsm,
    congrArg TsmRegs.syncWide htsm, congrArg TsmRegs.lpmReq htsm⟩

theorem phasePort_of_line {l : LineNum} {ph : Phase} (hl : s.line = l) (h : phaseOf l.toNat = some ph) :
    s.phasePort = phaseCode ph := phasePort_eq_phaseCode (hl ▸ h)

end LineCycle

/-! ### The seven operations (R81 to R87) -/

/-- Of the 261 ticks of a frame all but the six that enter a phase select LSTEP (R64). -/
theorem length_filter_decodeLine_lstep :
    ((List.range 261).filter fun n => decodeLine (n + 1) = .lstep).length = 255 := by
  have hset : ((List.range 261).filter fun n => decodeLine (n + 1) = .lstep).toFinset =
      Finset.range 261 \ {24, 28, 220, 246, 248, 260} := by
    ext n
    simp [decodeLine_eq_iff]
  rw [← List.toFinset_card_of_nodup (List.nodup_range.filter _), hset, Finset.card_sdiff_of_subset (by decide),
    Finset.card_range]
  rfl

/-- Settles O25: a legal line that selects LSTEP is not 260, so the sum stays in the frame. -/
theorem lstepCountsOn : Obligations.LstepCountsOn := by
  refine ⟨fun s h => ?exec, fun s => ⟨?fires, fun h hle => ?step⟩, length_filter_decodeLine_lstep⟩
  case exec => exact congrArg (fun l => Host.Outcome.next (s.setLine l)) (lineNext_eq_ofNat h)
  case fires => rw [fires_lstep_iff, fires_tick_iff, and_assoc]
  case step =>
    obtain ⟨hstep, -, hline, htrig, hwide, hreq⟩ := step_of_fires_line rfl h
    have hnext : (clocked s).line.toNat = s.line.toNat + 1 :=
      (congrArg BitVec.toNat hline).trans (lineNext_toNat (by omega))
    have hlast : s.line.toNat + 1 ≠ 261 := fun e => (fires_lstep_iff.mp h).2 (by simp [e])
    exact ⟨clocked s, hstep, hnext, by omega, htrig, hwide, hreq⟩

/-- Settles O26: the cycle leaves what LWAKE gives (`step_of_fires_line`), and line 25 is of PreActive. -/
theorem lwakeEntersPreActive : Obligations.LwakeEntersPreActive := by
  intro s
  refine ⟨rfl, by simp [fires_lwake_iff, fires_tick_iff, and_assoc], fun h => ?_⟩
  obtain ⟨hstep, hhcnt, hline, htrig, hwide, hreq⟩ := step_of_fires_line rfl h
  exact ⟨clocked s, hstep, hhcnt, hline, hreq, htrig, hwide, phasePort_of_line (ph := .preActive) hline rfl⟩

/-- Settles O27: the arm flag is set in the tick, so the trigger waits for `hcnt` alone (R124). -/
theorem larmEntersActivePicture : Obligations.LarmEntersActivePicture := by
  intro s
  refine ⟨rfl, by simp [fires_larm_iff, fires_tick_iff, and_assoc], fun h => ?_⟩
  obtain ⟨hstep, hhcnt, hline, htrig, hwide, hreq⟩ := step_of_fires_line rfl h
  exact ⟨clocked s, hstep, hhcnt, hline, htrig, hwide, hreq, phasePort_of_line (ph := .activePicture) hline rfl,
    trig_iff.mpr ⟨htrig, rfl⟩, (congrArg rowIndex hline).trans (by decide : rowIndex 29 = 0)⟩

theorem fires_shift_iff {s : State} : s.fires .shift = true ↔ s.input.rst = false ∧ s.bcnt ≠ 0 ∧ s.bitEnd = true := by
  simp [fires_shift, shifting_iff, and_assoc]

theorem clocked_bcnt_of_shift {s : State} (hc : s.bcnt ≠ 0) (he : s.bitEnd = true) (hl : ¬ s.loads) :
    (clocked s).bcnt = s.bcnt - 1 := by
  rw [loads_iff] at hl
  simp [clocked, shifting_iff.mpr hc, he, hl, bcntPrev_of_ne hc]

/-- Settles O28: the arm flag is cleared in the tick, and the shifter changes as in every cycle with a LOAD or SHIFT. -/
theorem ldisarmEntersPostActive : Obligations.LdisarmEntersPostActive := by
  intro s
  refine ⟨rfl, by simp [fires_ldisarm_iff, fires_tick_iff, and_assoc], fun h => ?_⟩
  obtain ⟨hstep, hhcnt, hline, htrig, hwide, hreq⟩ := step_of_fires_line rfl h
  have hdisarmed : (clocked s).trigEn = false := htrig
  refine ⟨clocked s, hstep, hhcnt, hline, hdisarmed, hwide, hreq, phasePort_of_line (ph := .postActive) hline rfl,
    fun n => by simp [State.trig, hdisarmed], fun hload => ?load, fun hshift hnoLoad => ?shift⟩
  case load =>
    obtain ⟨hsr, hbcnt, -⟩ := clocked_shifter_of_load (fires_load_iff.mp hload).2
    exact ⟨hsr, hbcnt⟩
  case shift =>
    obtain ⟨hr, hc, he⟩ := fires_shift_iff.mp hshift
    have hl : ¬ s.loads := fun hl => by simp [fires_load_iff.mpr ⟨hr, hl⟩] at hnoLoad
    exact ⟨clocked_sr_of_shift hc he hl, clocked_bcnt_of_shift hc he hl⟩

/-- The width of the sync pulse of the next line is that which the flag selects (R123). -/
theorem syncWidth_clocked (s : State) :
    (clocked s).syncWidth = if (clocked s).syncWide then s.params.vsyncWidth else s.params.hsyncWidth := rfl

/-- Settles O29: `sync_wide` is set in the tick, so the pulse of line 247 is wide from its first cycle. -/
theorem lvsyncEntersVSyncPulse : Obligations.LvsyncEntersVSyncPulse := by
  intro s
  refine ⟨rfl, by simp [fires_lvsync_iff, fires_tick_iff, and_assoc], fun h => ?_⟩
  obtain ⟨hstep, hhcnt, hline, htrig, hwide, hreq⟩ := step_of_fires_line rfl h
  exact ⟨clocked s, hstep, hhcnt, hline, hwide, htrig, hreq, phasePort_of_line (ph := .vsyncPulse) hline rfl,
    (syncWidth_clocked s).trans (if_pos hwide)⟩

/-- Settles O30: `sync_wide` is cleared in the tick, so the pulse of line 249 is normal from its first cycle. -/
theorem lhsyncEntersPostSync : Obligations.LhsyncEntersPostSync := by
  intro s
  refine ⟨rfl, by simp [fires_lhsync_iff, fires_tick_iff, and_assoc], fun h => ?_⟩
  obtain ⟨hstep, hhcnt, hline, htrig, hwide, hreq⟩ := step_of_fires_line rfl h
  have hnormal : (clocked s).syncWide = false := hwide
  exact ⟨clocked s, hstep, hhcnt, hline, hnormal, htrig, hreq, phasePort_of_line (ph := .postSync) hline rfl,
    (syncWidth_clocked s).trans (if_neg (by simp [hnormal]))⟩

/-- A cycle without reset makes a legal line number smaller in the tick of line 260 alone (R87). -/
theorem last_tick_of_clocked_line_lt {s : State} (hle : s.line.toNat ≤ 260)
    (hlt : (clocked s).line.toNat < s.line.toNat) : s.tick = true ∧ s.line.toNat = 260 := by
  have ht : s.tick = true := by
    by_contra ht
    rw [clocked_line_of_not_tick ht] at hlt
    exact lt_irrefl _ hlt
  have hnext : (clocked s).line.toNat = (s.line.toNat + 1) % 261 := by
    rw [← tsm_line, clocked_tsm, if_pos ht, tsmTick_line hle, tsm_line]
  exact ⟨ht, by omega⟩

/-- Settles O31; the last clause is `last_tick_of_clocked_line_lt`. -/
theorem lwrapStartsTheFrame : Obligations.LwrapStartsTheFrame := by
  intro s
  refine ⟨rfl, by simp [fires_lwrap_iff, fires_tick_iff, and_assoc], fun h => ?_, fun hle hr t ht hlt => ?_⟩
  · obtain ⟨hstep, hhcnt, hline, htrig, hwide, hreq⟩ := step_of_fires_line rfl h
    exact ⟨clocked s, hstep, hhcnt, hline, hreq, htrig, hwide, phasePort_of_line (ph := .lowPowerWait) hline rfl⟩
  · obtain rfl : clocked s = t := by simpa [step_of_not_rst hr] using ht
    obtain ⟨htick, hline⟩ := last_tick_of_clocked_line_lt hle hlt
    exact fires_lwrap_iff.mpr ⟨fires_tick_iff.mpr ⟨hr, tick_iff.mp htick⟩, by rw [hline]⟩

/-! ### The frame (R88) -/

/-- The first and the last line of a phase (R24). -/
def phaseLines : Phase → Nat × Nat
  | .lowPowerWait => (0, 24)
  | .preActive => (25, 28)
  | .activePicture => (29, 220)
  | .postActive => (221, 246)
  | .vsyncPulse => (247, 248)
  | .postSync => (249, 260)

theorem phaseOf_eq_some_iff (n : Nat) (ph : Phase) :
    phaseOf n = some ph ↔ (phaseLines ph).1 ≤ n ∧ n ≤ (phaseLines ph).2 := by
  unfold phaseOf
  split_ifs <;> cases ph <;> simp [phaseLines] <;> omega

theorem phaseLines_last_le (ph : Phase) : (phaseLines ph).2 ≤ 260 := by cases ph <;> decide

theorem length_filter_phaseOf (ph : Phase) : ((List.range 261).filter fun n => phaseOf n = some ph).length =
    (phaseLines ph).2 + 1 - (phaseLines ph).1 := by
  have hset : ((List.range 261).filter fun n => phaseOf n = some ph).toFinset =
      Finset.Icc (phaseLines ph).1 (phaseLines ph).2 := by
    ext n
    have := phaseLines_last_le ph
    simp [phaseOf_eq_some_iff]
    omega
  rw [← List.toFinset_card_of_nodup (List.nodup_range.filter _), hset, Nat.card_Icc]

/-- Settles O32: the line after `n` ticks is `tsmTicks_line`, and the lines of a phase are those of `phaseLines`. -/
theorem frameOf261Lines : Obligations.FrameOf261Lines := by
  refine ⟨fun n a b c => ?line, fun n => phaseOf_eq_some_iff n _, fun n => ?vsync, ?counts⟩
  case line => simp [tsmTicks_line]
  case vsync =>
    rw [phaseOf_eq_some_iff, phaseLines]
    omega
  case counts => simp [length_filter_phaseOf, phaseLines]

end Sys2Proof.Machine
end

section
/-! PROOFS. The line serializer (R100 to R112): the sequencer's START, TRIGDROP, LOAD and WAIT, the shifter's SHIFT and
BITHOLD, how long the shifter takes to become ready, and the cycles of a line in which each of them fires (R108). -/

namespace Sys2Proof.Machine

section Serializer

variable {s : State}

/-! ### When the sequencer and the shifter fire, in terms of the registers -/

theorem fires_start_iff : s.fires .start = true ↔
    s.input.rst = false ∧ s.trigEn = true ∧ s.hcnt = s.params.pictureDelay ∧ s.bidx = 8 := by
  simp [fires_start, trig_iff, State.seqBusy, and_assoc]

theorem fires_trigdrop_iff : s.fires .trigdrop = true ↔
    s.input.rst = false ∧ s.trigEn = true ∧ s.hcnt = s.params.pictureDelay ∧ s.bidx ≠ 8 := by
  simp [fires_trigdrop, trig_iff, seqBusy_iff, and_assoc]

theorem fires_wait_iff : s.fires .wait = true ↔ s.input.rst = false ∧ s.bidx ≠ 8 ∧ s.ready = false := by
  simp [fires_wait, seqBusy_iff, and_assoc]

theorem fires_bithold_iff : s.fires .bithold = true ↔
    s.input.rst = false ∧ s.bcnt ≠ 0 ∧ s.bdiv ≠ s.params.bitLast := by
  simp [fires_bithold, shifting_iff, State.bitEnd, and_assoc]

theorem fires_shift_iff_bdiv_last : s.fires .shift = true ↔
    s.input.rst = false ∧ s.bcnt ≠ 0 ∧ s.bdiv = s.params.bitLast := by
  rw [fires_shift_iff, bitEnd_iff]

theorem ready_eq_false_iff : s.ready = false ↔ s.bcnt ≠ 0 ∧ (s.bcnt = 1 → s.bdiv ≠ s.params.bitLast) := by
  rw [← Bool.not_eq_true, ready_iff, not_or, not_and]

theorem not_loads_of_fires_load_eq_false (hr : s.input.rst = false) (h : s.fires .load = false) : ¬ s.loads :=
  fun hl => by simp [fires_load_iff.mpr ⟨hr, hl⟩] at h

/-! ### The sequencer's registers after a cycle without reset -/

/-- A busy sequencer takes no trigger (R102). -/
theorem clocked_row_of_busy (hb : s.bidx ≠ 8) : (clocked s).row = s.row := by
  simp [clocked, seqBusy_iff.mpr hb]

/-- The byte index of a busy sequencer changes in a LOAD alone, trigger or not (R102, R104). -/
theorem clocked_bidx_of_busy (hb : s.bidx ≠ 8) (hl : ¬ s.loads) : (clocked s).bidx = s.bidx := by
  have hbusy : s.seqBusy = true := seqBusy_iff.mpr hb
  have hready : ¬ s.ready = true := fun hr => hl ⟨hb, hr⟩
  simp [clocked, hbusy, hready]

theorem clocked_bidx_of_load (hl : s.loads) (hne : s.bidx ≠ 15) : (clocked s).bidx = s.bidx + 1 := by
  have hbusy : s.seqBusy = true := seqBusy_iff.mpr hl.1
  simp [clocked, hbusy, hl.2, bidxNext_of_ne hne]

/-- Without LOAD an empty shifter keeps its register. -/
theorem clocked_sr_of_empty (hc : s.bcnt = 0) (hl : ¬ s.loads) : (clocked s).sr = s.sr := by
  rw [loads_iff] at hl
  simp [clocked, State.shifting, hl, hc]

/-! ### The row of a line (R67, R101) -/

/-- The latched row of any line number, as the slice of the nine bit difference (R101). -/
theorem rowIndex_toNat_mod (l : LineNum) : (rowIndex l).toNat = (l.toNat + 512 - 29) % 512 / 4 % 64 := by
  have := l.isLt
  simp only [rowIndex, lineOffset, BitVec.extractLsb'_toNat, BitVec.toNat_sub, Nat.shiftRight_eq_div_pow,
    BitVec.ofNat_eq_ofNat, BitVec.reduceToNat]
  omega

/-- The row of an active line is one of the 48 (R112). -/
theorem rowIndex_toNat_of_active (ha : s.active) : (rowIndex s.line).toNat = (s.line.toNat - 29) / 4 := by
  obtain ⟨hlo, hhi⟩ := ha
  rw [rowIndex_toNat hlo]
  omega

/-! ### The video pin (R107) -/

theorem video_of_empty (h : s.bcnt = 0) : s.video = false := by simp [State.video, State.shifting, h]

theorem video_of_shifting (h : s.bcnt ≠ 0) : s.video = s.sr.msb := by
  simp [State.video, shifting_iff.mpr h, BitVec.msb_eq_getLsbD_last]

/-- The pin reads the byte and the count of the shifter and nothing else. -/
theorem video_eq_of_shifter {t : State} (hsr : t.sr = s.sr) (hbcnt : t.bcnt = s.bcnt) : t.video = s.video := by
  rw [State.video, State.video, State.shifting, State.shifting, hsr, hbcnt]

/-! ### The cycles left of the bits in the shifter (R110) -/

/-- The shifter has a bit to show, and has shown it for a number of cycles that a bit lasts. -/
abbrev State.holdsBits (s : State) : Prop := s.bcnt ≠ 0 ∧ s.bdiv ≤ s.params.bitLast

/-- The cycles before the last one of the last bit in the shifter. -/
def State.cyclesLeft (s : State) : Nat := (s.bcnt.toNat - 1) * s.params.bitDiv + (s.params.bitLast - s.bdiv)

theorem ready_iff_cyclesLeft (h : s.holdsBits) : s.ready = true ↔ s.cyclesLeft = 0 := by
  obtain ⟨hc, hd⟩ := h
  have hone : s.bcnt = 1 ↔ s.bcnt.toNat - 1 = 0 := by bv_omega
  have hlast : s.bdiv = s.params.bitLast ↔ s.params.bitLast - s.bdiv = 0 := by omega
  have hdiv : s.params.bitDiv ≠ 0 := Nat.succ_ne_zero _
  rw [ready_iff, or_iff_right hc, hone, hlast, State.cyclesLeft, Nat.add_eq_zero_iff, Nat.mul_eq_zero, or_iff_left hdiv]

/-- A shifter that is not ready has a cycle less to go after each cycle (R105, R106). -/
theorem clocked_of_not_ready (h : s.holdsBits) (hready : ¬ s.ready = true) :
    (clocked s).holdsBits ∧ (clocked s).cyclesLeft + 1 = s.cyclesLeft := by
  obtain ⟨hc, hd⟩ := h
  have hp : (clocked s).params = s.params := rfl
  unfold State.cyclesLeft State.holdsBits
  by_cases he : s.bitEnd = true
  · obtain ⟨hbcnt, hbdiv⟩ := clocked_of_shift hc he fun hl => hready hl.2
    have hlast := bitEnd_iff.mp he
    have hmore : 2 ≤ s.bcnt.toNat := by
      by_contra hlt
      exact hready (ready_iff.mpr (.inr ⟨by bv_omega, hlast⟩))
    obtain ⟨k, hk⟩ := Nat.exists_eq_add_of_le' hmore
    rw [hp, hbcnt, hbdiv, hlast, hk, Params.bitDiv]
    refine ⟨⟨by bv_omega, Nat.zero_le _⟩, ?_⟩
    rw [show k + 2 - 1 = k + 1 from rfl, Nat.add_sub_cancel, Nat.succ_mul]
    omega
  · obtain ⟨hbcnt, hbdiv⟩ := clocked_of_bithold hc he hd
    have := mt bitEnd_iff.mpr he
    rw [hp, hbcnt, hbdiv]
    exact ⟨⟨hc, by omega⟩, by omega⟩

/-- A LOAD fills the shifter with eight bits (R103). -/
theorem cyclesLeft_clocked_of_load (hl : s.loads) :
    (clocked s).holdsBits ∧ (clocked s).cyclesLeft + 1 = 8 * s.params.bitDiv := by
  obtain ⟨-, hbcnt, hbdiv⟩ := clocked_shifter_of_load hl
  have hp : (clocked s).params = s.params := rfl
  refine ⟨⟨by simp [hbcnt], by simp [hbdiv]⟩, ?_⟩
  rw [State.cyclesLeft, hbcnt, hbdiv, hp, Params.bitDiv]
  simp only [BitVec.ofNat_eq_ofNat, BitVec.reduceToNat]
  omega

/-- As long as cycles are left they run down one a cycle, and a busy sequencer waits (R104). -/
theorem run_cyclesLeft {m : Nat} (h : s.holdsBits) (hm : m ≤ s.cyclesLeft) (hn : NoReset m s) :
    ∃ t, run m s = .next t ∧ t.holdsBits ∧ t.cyclesLeft + m = s.cyclesLeft ∧
      (s.bidx ≠ 8 → t.bidx = s.bidx ∧ t.row = s.row) := by
  induction m with
  | zero => exact ⟨s, rfl, h, rfl, fun _ => ⟨rfl, rfl⟩⟩
  | succ m ih =>
    obtain ⟨u, hu, hbits, hleft, hkept⟩ := ih (by omega) (hn.mono (by omega))
    have hready : ¬ u.ready = true := by rw [ready_iff_cyclesLeft hbits]; omega
    obtain ⟨hbits', hleft'⟩ := clocked_of_not_ready hbits hready
    refine ⟨clocked u, run_snoc hu (step_of_not_rst (hn.after_run (n := 1) hu).head), hbits', by omega, fun hb => ?_⟩
    obtain ⟨hbidx, hrow⟩ := hkept hb
    have hbu : u.bidx ≠ 8 := hbidx ▸ hb
    exact ⟨(clocked_bidx_of_busy hbu fun hl => hready hl.2).trans hbidx, (clocked_row_of_busy hbu).trans hrow⟩

end Serializer

/-! ### The operations one by one -/

/-- Settles O36: the row is that of the old line (`clocked_of_start`), and a sequencer at byte 0 is busy. -/
theorem startLatchesTheRow : Obligations.StartLatchesTheRow := by
  intro s
  refine ⟨⟨_, exec_eq_effect .start s, rfl, rowIndex_toNat_mod s.line, fun ha => ?row⟩, fires_start_iff, fun h => ?step⟩
  case row =>
    have hrow := rowIndex_toNat_of_active ha
    have hlast := ha.2
    exact ⟨hrow, hrow.trans_le (by omega)⟩
  case step =>
    obtain ⟨hr, harm, hhcnt, hidle⟩ := fires_start_iff.mp h
    obtain ⟨hrow, hbidx⟩ := clocked_of_start (trig_iff.mpr ⟨harm, hhcnt⟩) hidle
    refine ⟨clocked s, step_of_not_rst hr, hrow, hbidx, fun hc => ?_, fun hr' hready => ?_⟩
    · have hl : ¬ s.loads := fun hl => hl.1 hidle
      obtain ⟨hbcnt, hbdiv⟩ := clocked_of_empty hc hl
      exact ⟨clocked_sr_of_empty hc hl, hbcnt, hbdiv, ready_iff.mpr (.inl hbcnt)⟩
    · exact fires_load_iff.mpr ⟨hr', by simp [hbidx], hready⟩

/-- Settles O37: START needs an idle sequencer, and TRIGDROP a busy one. -/
theorem trigdropLosesTheTrigger : Obligations.TrigdropLosesTheTrigger := by
  intro s
  refine ⟨rfl, fires_trigdrop_iff, fun h => ?_⟩
  obtain ⟨hr, -, -, hbusy⟩ := fires_trigdrop_iff.mp h
  have hstart : s.fires .start = false := Bool.eq_false_iff.mpr fun hs => hbusy (fires_start_iff.mp hs).2.2.2
  exact ⟨hstart, clocked s, step_of_not_rst hr, clocked_row_of_busy hbusy, fun hload =>
    clocked_bidx_of_busy hbusy (not_loads_of_fires_load_eq_false hr hload)⟩

/-- Settles O38: LOAD's values are written whether SHIFT fires too or not (`clocked_shifter_of_load`). -/
theorem loadTakesTheNextByte : Obligations.LoadTakesTheNextByte := by
  intro s
  refine ⟨⟨_, exec_eq_effect .load s, rfl, rfl, bidxNext_of_ne⟩, fbRaddr_toNat s, ?_, fun h => ?_⟩
  · rw [fires_load_iff, State.loads, ready_iff]
  · obtain ⟨hr, hl⟩ := fires_load_iff.mp h
    obtain ⟨hsr, hbcnt, hbdiv⟩ := clocked_shifter_of_load hl
    exact ⟨clocked s, step_of_not_rst hr, hsr, hbcnt, hbdiv, clocked_row_of_busy hl.1, clocked_bidx_of_load hl⟩

/-- Settles O45: the cycles left run down to the cycle in which the shifter is ready (`run_cyclesLeft`). -/
theorem shifterBecomesReadyInTime : Obligations.ShifterBecomesReadyInTime := by
  intro s n hlo _ hd hleft hn
  have hbits : s.holdsBits := ⟨by bv_omega, hd⟩
  change n = s.cyclesLeft at hleft
  refine ⟨?bound, ?ready, fun m hm => ?before⟩
  case bound =>
    obtain ⟨k, hk⟩ := Nat.exists_eq_add_of_le' hlo
    rw [hleft, State.cyclesLeft, hk, Nat.add_sub_cancel, Nat.succ_mul, Params.bitDiv]
    omega
  case ready =>
    obtain ⟨t, ht, htbits, hdown, -⟩ := run_cyclesLeft hbits hleft.le hn
    have hready : t.ready = true := (ready_iff_cyclesLeft htbits).mpr (by omega)
    obtain ⟨hone, hlast⟩ := (ready_iff.mp hready).resolve_left htbits.1
    exact ⟨t, ht, hone, hlast.trans (by rw [run_params ht]), hready⟩
  case before =>
    obtain ⟨t, ht, htbits, hdown, -⟩ := run_cyclesLeft hbits (by omega) (hn.mono hm.le)
    refine ⟨t, ht, ?_⟩
    rw [← Bool.not_eq_true, ready_iff_cyclesLeft htbits]
    omega

/-- Settles O39: after a LOAD `8 * BIT_DIV - 1` cycles are left, through which the sequencer waits (`run_cyclesLeft`). -/
theorem waitHoldsTheSequencer : Obligations.WaitHoldsTheSequencer := by
  intro s
  refine ⟨rfl, by rw [fires_wait_iff, ready_eq_false_iff], fun h => ?wait, fun h hb m hm hn => ?length⟩
  case wait =>
    obtain ⟨hr, hbusy, hready⟩ := fires_wait_iff.mp h
    have hl : ¬ s.loads := fun hl => by simp [hl.2] at hready
    exact ⟨clocked s, step_of_not_rst hr, clocked_bidx_of_busy hbusy hl, clocked_row_of_busy hbusy⟩
  case length =>
    obtain ⟨hr, hl⟩ := fires_load_iff.mp h
    obtain ⟨hbidx, -, -⟩ := clocked_of_load hl (by omega)
    obtain ⟨hbits, hleft⟩ := cyclesLeft_clocked_of_load hl
    have hrest : NoReset (m + 1) (clocked s) := after_of_not_rst hr ▸ hn.tail
    obtain ⟨t, ht, htbits, hdown, hkept⟩ := run_cyclesLeft (m := m) hbits (by omega) (hrest.mono (Nat.le_succ m))
    obtain ⟨hbidx', hrow⟩ := hkept (by bv_omega)
    have hr' : t.input.rst = false := (hrest.after_run (n := 1) ht).head
    have hbusy : t.bidx ≠ 8 := by bv_omega
    have hready : t.ready = true ↔ m + 1 = 8 * s.params.bitDiv := by
      rw [ready_iff_cyclesLeft htbits]
      omega
    refine ⟨t, (run_succ (step_of_not_rst hr)).trans ht, by rw [hbidx', hbidx],
      hrow.trans (clocked_row_of_busy hl.1), ?_, ?_⟩
    · rw [fires_wait_iff, and_iff_right hr', and_iff_right hbusy, ← Bool.not_eq_true, hready]
      omega
    · rw [fires_load_iff, and_iff_right hr', State.loads, and_iff_right hbusy, hready]

/-- Settles O40: alone SHIFT moves every bit up one place, and beside LOAD its values are not written (R111). -/
theorem shiftShowsTheNextBit : Obligations.ShiftShowsTheNextBit := by
  intro s
  refine ⟨fun hc => ?exec, fires_shift_iff_bdiv_last, fun h hload => ?alone, fun _ hload => ?load⟩
  case exec => rw [exec_eq_effect, effect_shift, bcntPrev_of_ne hc]; rfl
  case alone =>
    obtain ⟨hr, hc, he⟩ := fires_shift_iff.mp h
    have hl := not_loads_of_fires_load_eq_false hr hload
    obtain ⟨hbcnt, hbdiv⟩ := clocked_of_shift hc he hl
    refine ⟨clocked s, step_of_not_rst hr, ?_, ?_, ?_, hbcnt, hbdiv, video_of_empty⟩ <;>
      rw [clocked_sr_of_shift hc he hl]
    · simp [Nat.shiftLeft_eq]
    · simp
    · simp
  case load =>
    obtain ⟨hr, hl⟩ := fires_load_iff.mp hload
    exact ⟨clocked s, step_of_not_rst hr, clocked_shifter_of_load hl⟩

/-- Settles O41: from its first cycle on the bit is kept (`run_within_bit`), and cycle `m` of it is the last one when
`bdiv` has come to `BIT_DIV - 1`. -/
theorem bitholdKeepsTheBit : Obligations.BitholdKeepsTheBit := by
  intro s
  refine ⟨fun hlt => ?exec, fires_bithold_iff, fun h hlt => ?step, fun hone hle => ?never, fun hc h0 m hm hn => ?period⟩
  case exec => rw [exec_eq_effect, effect_bithold, bdivNext_of_lt hlt]; rfl
  case step =>
    obtain ⟨hr, hc, hne⟩ := fires_bithold_iff.mp h
    have he : ¬ s.bitEnd = true := mt bitEnd_iff.mp hne
    obtain ⟨hbcnt, hbdiv⟩ := clocked_of_bithold hc he hlt.le
    have hsr := clocked_sr_of_bithold hc he
    exact ⟨clocked s, step_of_not_rst hr, hbdiv, hsr, hbcnt, video_eq_of_shifter hsr hbcnt⟩
  case never =>
    rw [← Bool.not_eq_true, fires_bithold_iff]
    have : s.params.bitLast = 0 := Nat.succ.inj hone
    omega
  case period =>
    have hlast : s.params.bitDiv = s.params.bitLast + 1 := rfl
    obtain ⟨t, ht, hsr, hbcnt, hbdiv⟩ := run_within_bit (m := m) hc (by omega) (hn.mono (Nat.le_succ m))
    have hr : t.input.rst = false := (hn.after_run (n := 1) ht).head
    have hct : t.bcnt ≠ 0 := hbcnt ▸ hc
    have hp := run_params ht
    refine ⟨t, ht, by omega, hsr, hbcnt, video_eq_of_shifter hsr hbcnt, ?_, ?_⟩
    · rw [fires_bithold_iff, and_iff_right hr, and_iff_right hct, hp]
      omega
    · rw [fires_shift_iff_bdiv_last, and_iff_right hr, and_iff_right hct, hp]
      omega

/-- Settles O42: a shifter that is ready and not empty is in the last cycle of its last bit, where BITHOLD does not fire. -/
theorem loadWinsOverShift : Obligations.LoadWinsOverShift := by
  intro s
  refine ⟨?both, fun hload _ => ?step, fun ⟨hload, hhold⟩ => ?hold⟩
  case both =>
    rw [fires_load_iff, fires_shift_iff_bdiv_last, State.loads, ready_iff]
    constructor
    · rintro ⟨⟨hr, hb, hready⟩, -, hc, hd⟩
      exact ⟨hr, hb, hready.resolve_left hc⟩
    · rintro ⟨hr, hb, hone, hd⟩
      exact ⟨⟨hr, hb, .inr ⟨hone, hd⟩⟩, hr, by simp [hone], hd⟩
  case step =>
    obtain ⟨hr, hl⟩ := fires_load_iff.mp hload
    obtain ⟨hsr, hbcnt, hbdiv⟩ := clocked_shifter_of_load hl
    exact ⟨clocked s, _, step_of_not_rst hr, exec_eq_effect .load s, hsr, hbcnt, hbdiv⟩
  case hold =>
    obtain ⟨-, hc, hne⟩ := fires_bithold_iff.mp hhold
    exact not_loads_of_not_bitEnd hc (mt bitEnd_iff.mp hne) (fires_load_iff.mp hload).2

/-- Settles O43: the pin is a function of the shifter (R107), and after a LOAD the shifter holds the byte read. -/
theorem videoPinDrivenByTheShifter : Obligations.VideoPinDrivenByTheShifter := by
  intro s t hstep
  refine ⟨video_of_empty, video_of_shifting, fun hload => ?_⟩
  obtain ⟨hr, hl⟩ := fires_load_iff.mp hload
  obtain ⟨hsr, hbcnt, -⟩ := clocked_shifter_of_load hl
  obtain rfl : clocked s = t := by simpa [step_of_not_rst hr] using hstep
  rw [video_of_shifting (by simp [hbcnt]), hsr]
  rfl

/-- Settles O44: without a trigger the serializer's part of `clocked` reads its own registers, the configuration and the
byte on the read port. -/
theorem serializerRunsOnByItself : Obligations.SerializerRunsOnByItself := by
  intro s s' t t' hp ⟨hrow, hbidx, hsr, hbcnt, hbdiv⟩ hfb hr hr' htrig htrig' hstep hstep'
  obtain rfl : clocked s = t := by simpa [step_of_not_rst hr] using hstep
  obtain rfl : clocked s' = t' := by simpa [step_of_not_rst hr'] using hstep'
  simp [SameSerializer, clocked, State.seqBusy, State.ready, State.shifting, State.bitEnd, State.fbRdata, State.fbRaddr,
    htrig, htrig', hp, hrow, hbidx, hsr, hbcnt, hbdiv, hfb]

/-- Settles O47: START fires on active lines alone (I3), whose rows are `(line - 29) / 4`. -/
theorem rowOfFourLines : Obligations.RowOfFourLines := by
  intro s t h hstart hstep r _
  obtain ⟨hr, harm, hhcnt, hidle⟩ := fires_start_iff.mp hstart
  obtain rfl : clocked s = t := by simpa [step_of_not_rst hr] using hstep
  have ha : s.active := h.trigEn_iff.mp harm
  rw [(clocked_of_start (trig_iff.mpr ⟨harm, hhcnt⟩) hidle).1, rowIndex_toNat_of_active ha]
  omega

/-! ### The cycles of a line (R108) -/

section Scan

variable {s : State}

/-- LOAD fires in the cycle of its byte on an active line (R108). -/
theorem ScanInv.hcnt_of_loads (h : ScanInv s) (hl : s.loads) : s.active ∧ s.row = rowIndex s.line ∧
    s.hcnt = s.params.pictureDelay + 1 + 8 * s.bidx.toNat * s.params.bitDiv := by
  obtain ⟨hbusy, hready⟩ := hl
  rcases h.position with ⟨⟨hidle, -⟩, -⟩ | ⟨ha, hrow, hbidx, -, hfirst⟩ | ⟨ha, hrow, hb, hc, hcycle⟩
  · exact absurd hidle hbusy
  · exact ⟨ha, hrow, by simp [hbidx, hfirst]⟩
  · obtain ⟨hone, hlast⟩ := (ready_iff.mp hready).resolve_left (by bv_omega)
    refine ⟨ha, hrow, ?_⟩
    obtain ⟨k, hk⟩ := Nat.exists_eq_add_of_le' hb
    rw [hcycle, State.scanCycle, hk, hone, hlast, Params.bitDiv]
    simp only [BitVec.ofNat_eq_ofNat, BitVec.reduceToNat, Nat.add_sub_cancel]
    ring

/-- Where the bits end: SHIFT in the last cycle of each of the 64 bit periods of an active line (R108). -/
theorem ScanInv.bit_end_iff (h : ScanInv s) : s.bcnt ≠ 0 ∧ s.bdiv = s.params.bitLast ↔
    s.active ∧ ∃ b < 64, s.hcnt = s.params.pictureDelay + 1 + (b + 1) * s.params.bitDiv := by
  have hpos : 0 < s.params.bitDiv := Nat.succ_pos _
  constructor
  · rintro ⟨hne, hlast⟩
    obtain ⟨ha, -, hb, hc, hcycle⟩ := h.showing_of_shifting (shifting_iff.mpr hne)
    refine ⟨ha, s.bitsOver, ?_, ?_⟩
    · have := h.inv.bidx_le
      unfold State.bitsOver
      omega
    · rw [hcycle, scanCycle_eq, hlast, Params.bitDiv]
      ring
  · rintro ⟨ha, b, hb, hhcnt⟩
    have hlo : s.params.bitDiv ≤ (b + 1) * s.params.bitDiv := Nat.le_mul_of_pos_left _ (Nat.succ_pos b)
    have hhi : (b + 1) * s.params.bitDiv ≤ 64 * s.params.bitDiv := Nat.mul_le_mul_right _ hb
    rcases h.position with ⟨-, hrest⟩ | ⟨-, -, -, -, hfirst⟩ | ⟨-, -, -, hc, hcycle⟩
    · have := hrest ha
      omega
    · omega
    · rw [scanCycle_eq] at hcycle
      have hdiv : s.bdiv < s.params.bitDiv := Nat.lt_succ_of_le h.inv.bdiv_le
      obtain ⟨-, hend⟩ := last_cycle_of_period (q := s.bitsOver) (n := b + 1) hdiv (by omega)
      exact ⟨by bv_omega, Nat.succ.inj hend⟩

/-- From the cycle after the last LOAD on the sequencer is idle (R108, R109). -/
theorem ScanInv.bidx_of_last_byte (h : ScanInv s) (hlate : s.params.pictureDelay + 2 + 56 * s.params.bitDiv ≤ s.hcnt) :
    s.bidx = 8 := by
  rcases h.position with ⟨⟨hidle, -⟩, -⟩ | ⟨-, -, -, -, hfirst⟩ | ⟨-, -, -, hc, hcycle⟩
  · exact hidle
  · omega
  · rw [scanCycle_eq] at hcycle
    have hdiv : s.bdiv < s.params.bitDiv := Nat.lt_succ_of_le h.inv.bdiv_le
    have hbits : 56 < s.bitsOver + 1 := by
      refine lt_of_mul_lt_mul_right (a := s.params.bitDiv) ?_ (Nat.zero_le _)
      rw [Nat.succ_mul s.bitsOver]
      omega
    have := h.inv.bidx_le
    unfold State.bitsOver at hbits
    bv_omega

/-- After the last bit the shifter is empty (R108). -/
theorem ScanInv.bcnt_of_past_picture (h : ScanInv s)
    (hlate : s.params.pictureDelay + 2 + 64 * s.params.bitDiv ≤ s.hcnt) : s.bcnt = 0 := by
  by_contra hne
  obtain ⟨-, -, -, hc, hcycle⟩ := h.showing_of_shifting (shifting_iff.mpr hne)
  have := h.inv.scanCycle_lt hc
  omega

end Scan

/-- Settles O56: the trigger finds the sequencer idle (I10), and LOAD and SHIFT fire where the scan position says. -/
theorem cyclePositionsOnALine : Obligations.CyclePositionsOnALine := by
  intro s h hr
  have hidle : s.hcnt = s.params.pictureDelay → s.bidx = 8 := fun he => (h.idle_of_le_delay he.le).1
  refine ⟨?start, fun k hk => ?load, fun hload => ?byte, ?shift, ?trigdrop, fun _ => h.bidx_of_last_byte,
    fun _ => h.bcnt_of_past_picture⟩
  case start =>
    rw [fires_start_iff, h.inv.trigEn_iff]
    exact ⟨fun ⟨_, ha, he, _⟩ => ⟨ha, he⟩, fun ⟨ha, he⟩ => ⟨hr, ha, he, hidle he⟩⟩
  case load =>
    rw [fires_load_iff]
    constructor
    · rintro ⟨⟨-, hl⟩, rfl⟩
      obtain ⟨ha, -, hhcnt⟩ := h.hcnt_of_loads hl
      exact ⟨ha, hhcnt⟩
    · rintro ⟨ha, hhcnt⟩
      obtain ⟨hl, hb, -⟩ := h.loads_of_hcnt ha hk hhcnt
      exact ⟨⟨hr, hl⟩, hb⟩
  case byte =>
    have hl := (fires_load_iff.mp hload).2
    obtain ⟨ha, hrow, -⟩ := h.hcnt_of_loads hl
    have hlt : s.bidx.toNat < 8 := by
      have := h.inv.bidx_le
      have := hl.1
      bv_omega
    refine ⟨hlt, ?_⟩
    rw [fbRaddr_toNat, hrow, rowIndex_toNat_of_active ha, Nat.mod_eq_of_lt hlt]
  case shift => rw [fires_shift_iff_bdiv_last, ← h.bit_end_iff, and_iff_right hr]
  case trigdrop =>
    refine Bool.eq_false_iff.mpr fun hdrop => ?_
    obtain ⟨-, -, hhcnt, hbusy⟩ := fires_trigdrop_iff.mp hdrop
    exact hbusy (hidle hhcnt)

end Sys2Proof.Machine
end


section
/-! PROOFS. The line timer (R120 to R127): HCOUNT and TICK, the sync pulse and the sub-line trigger of each line, where a
line is dark (R126), and that the timing reads nothing of the picture (R142). -/

namespace Sys2Proof.Machine

/-! ### HCOUNT (R121) and TICK (R122) -/

theorem fires_hcount_iff {s : State} : s.fires .hcount = true ↔ s.input.rst = false ∧ s.hcnt ≠ s.params.lineLast := by
  simp [fires_hcount, State.tick]

/-- Settles O20: below `LINE_WIDTH - 1` the sum fits the register (`hcntNext_of_lt`), and a line of one cycle is at its
last cycle always. -/
theorem hcountCountsInsideALine : Obligations.HcountCountsInsideALine := by
  intro s
  refine ⟨fires_hcount_iff, fun hlt => ⟨?exec, fun hr => ?step⟩, fun hone hle => ?never⟩
  case exec => rw [exec_eq_effect, effect_hcount, hcntNext_of_lt hlt]; rfl
  case step =>
    have ht : ¬ s.tick = true := mt tick_iff.mp hlt.ne
    exact ⟨clocked s, step_of_not_rst hr, clocked_hcnt_of_not_tick hlt.le ht, by rw [clocked_tsm, if_neg ht]⟩
  case never =>
    have hlast : s.params.lineLast = 0 := Nat.succ.inj hone
    rw [← Bool.not_eq_true, fires_hcount_iff]
    omega

/-- The operation of format L that `lnext` selects changes what `tsm_tick` says and nothing else (R91). -/
theorem effect_decodeLine (s : State) : effect (decodeLine s.lnext) s = s.setTsm (tsmTick s.tsm) := by
  rw [← commit_effect_self (decodeLine_ne_tick _), commit_decodeLine s s rfl]

/-- With TICK the operation of format L that `lnext` selects fires and no other (R64, R122). -/
theorem existsUnique_line_operation {s : State} (h : s.fires .tick = true) :
    ∃! l, (encodingRow l).format = .L ∧ s.fires l = true := by
  refine ⟨decodeLine s.lnext, ⟨decodeLine_format _, ?_⟩, fun l ⟨hl, hfires⟩ => ?_⟩
  · simp [fires_line_iff s (decodeLine_format _), h]
  · rw [fires_line_iff s hl, Bool.and_eq_true, decide_eq_true_iff] at hfires
    exact hfires.2.symm

/-- Settles O21: TICK is its operation of format L with `hcnt` set to 0 (`effect_decodeLine`), and the cycle leaves in the
timing registers what that operation gives (`effect_decodeLine_tsm`). -/
theorem tickEndsTheLine : Obligations.TickEndsTheLine := by
  intro s
  refine ⟨fires_tick_iff, ⟨_, exec_eq_effect .tick s, rfl, ?effect⟩, fun h => ⟨existsUnique_line_operation h, ?step⟩⟩
  case effect => exact (exec_eq_effect _ _).trans (congrArg Host.Outcome.next (effect_decodeLine (s.setHcnt 0)))
  case step =>
    obtain ⟨hr, hend⟩ := fires_tick_iff.mp h
    have ht : s.tick = true := tick_iff.mpr hend
    refine ⟨clocked s, _, step_of_not_rst hr, exec_eq_effect _ s, clocked_hcnt_of_tick ht, ?_⟩
    rw [clocked_tsm, if_pos ht, effect_decodeLine_tsm]

/-! ### The sync pulse (R123) and the trigger (R124) -/

theorem syncN_eq_false_iff {s : State} : s.syncN = false ↔ s.hcnt < s.syncWidth := by simp [State.syncN]

/-- The extended pulse is that of lines 247 and 248 (I4, R125). -/
theorem Inv.syncWidth_eq {s : State} (h : Inv s) : s.syncWidth =
    if s.line.toNat = 247 ∨ s.line.toNat = 248 then s.params.vsyncWidth else s.params.hsyncWidth := by
  have hwide : s.syncWide = true ↔ s.line.toNat = 247 ∨ s.line.toNat = 248 := by
    rw [h.syncWide_iff]
    omega
  simp only [State.syncWidth, hwide]

/-- Settles O22: the pulse is as wide as `sync_wide` selects, which is the width of the line (`Inv.syncWidth_eq`). -/
theorem syncPulseOfEachLine : Obligations.SyncPulseOfEachLine :=
  ⟨fun _ => syncN_eq_false_iff, fun _ h => h.syncWidth_eq ▸ syncN_eq_false_iff⟩

/-- Settles O23: by I3 the active lines are the armed ones, by I1 `hcnt` stays in the line, and the configuration, with it
the cycle of the trigger, is kept by every step. -/
theorem triggerOnceInAnActiveLine : Obligations.TriggerOnceInAnActiveLine := by
  refine ⟨fun _ => trig_iff, fun s h => ⟨?line, fun hlate => ?late, fun ht _ t hstep hmoved => ?moved⟩⟩
  case line => rw [trig_iff, h.trigEn_iff]
  case late =>
    have hlast : s.params.lineWidth = s.params.lineLast + 1 := rfl
    have hle := h.hcnt_le
    rw [← Bool.not_eq_true, trig_iff]
    omega
  case moved =>
    obtain rfl : after s = t := by simpa [step_eq_after] using hstep
    rw [(trig_iff.mp ht).2] at hmoved
    rw [← Bool.not_eq_true, trig_iff, after_params]
    exact fun ⟨_, hhcnt⟩ => hmoved hhcnt

/-! ### Blanking (R126) -/

/-- On a line that is not active the shifter is empty (R108). -/
theorem ScanInv.bcnt_of_not_active {s : State} (h : ScanInv s) (ha : ¬ s.active) : s.bcnt = 0 := by
  by_contra hne
  exact ha (h.showing_of_shifting (shifting_iff.mpr hne)).1

/-- In the 64 bit periods of an active line the shifter holds a bit (R108). -/
theorem ScanInv.shifting_in_picture {s : State} (h : ScanInv s) (ha : s.active)
    (hlo : s.params.pictureDelay + 2 ≤ s.hcnt) (hhi : s.hcnt < s.params.pictureDelay + 2 + 64 * s.params.bitDiv) :
    s.shifting = true := by
  rcases h.position with ⟨-, hrest⟩ | ⟨-, -, -, -, hfirst⟩ | ⟨-, -, -, hc, -⟩
  · have := hrest ha
    omega
  · omega
  · exact shifting_iff.mpr (by bv_omega)

theorem phaseOf_ne_activePicture_iff (n : Nat) : phaseOf n ≠ some .activePicture ↔ n ≤ 28 ∨ 221 ≤ n := by
  rw [Ne, phaseOf_eq_some_iff, phaseLines]
  omega

/-- The lines of vertical blanking are the 261 without the 192 of ActivePicture. -/
theorem length_filter_not_activePicture :
    ((List.range 261).filter fun n => phaseOf n ≠ some .activePicture).length = 69 := by
  have hsum := (List.range 261).length_eq_length_filter_add fun n => decide (phaseOf n = some .activePicture)
  simp only [length_filter_phaseOf, phaseLines, List.length_range] at hsum
  simp only [ne_eq, decide_not]
  omega

/-- Settles O55: the pin is dark on lines that are not active (`ScanInv.bcnt_of_not_active`) and outside the picture of one
that is (`ScanInv.video_eq_false`), in which the shifter holds a bit (`ScanInv.shifting_in_picture`). -/
theorem horizontalBlanking : Obligations.HorizontalBlanking :=
  ⟨fun _ h => ⟨fun ha => video_of_empty (h.bcnt_of_not_active ha), fun hle => h.video_eq_false (.inl hle),
      fun hge => h.video_eq_false (.inr hge), h.shifting_in_picture⟩,
    fun n _ => phaseOf_ne_activePicture_iff n, length_filter_not_activePicture⟩

/-! ### What the timing reads (R120, R142) -/

/-- A cycle without reset computes the timing registers from the configuration and the timing registers alone. -/
theorem sameTiming_clocked {s s' : State} (hp : s.params = s'.params) (h : SameTiming s s') :
    SameTiming (clocked s) (clocked s') := by
  obtain ⟨hhcnt, htsm⟩ := h
  have htick : s.tick = s'.tick := by rw [State.tick, State.tick, hhcnt, hp]
  refine ⟨?_, ?_⟩
  · simp only [clocked, htick, hhcnt, hp]
  · rw [clocked_tsm, clocked_tsm, htick, htsm]

/-- Settles O58: after a reset the timing registers are those of `State.afterReset`, after any other cycle those of
`sameTiming_clocked`. -/
theorem timingIgnoresThePicture : Obligations.TimingIgnoresThePicture := by
  intro s s' t t' hp h hrst hstep hstep'
  obtain rfl : after s = t := by simpa [step_eq_after] using hstep
  obtain rfl : after s' = t' := by simpa [step_eq_after] using hstep'
  cases hr : s.input.rst
  · rw [after_of_not_rst hr, after_of_not_rst (hrst ▸ hr)]
    exact sameTiming_clocked hp h
  · rw [after_of_rst hr, after_of_rst (hrst ▸ hr)]
    exact ⟨rfl, rfl⟩

end Sys2Proof.Machine
end

section
/-! PROOFS. The application's write (R140): the one byte it changes (R46, R47), in a reset cycle as in any other, and the
registers, which it does not reach. -/

namespace Sys2Proof.Machine

/-! ### The byte that a write changes -/

/-- Every byte after a write: the byte written, at its own address below 384, and elsewhere the byte of before. -/
theorem Memory.read_write {m : List Host.Cell} (h : Memory.wf m = true) (a x : FbAddr) (v : Byte) :
    Memory.read (Memory.write m a v) x = if x = a ∧ x.toNat ≤ 383 then v else Memory.read m x := by
  by_cases hx : x = a
  · subst hx
    by_cases hlow : x.toNat ≤ 383
    · rw [if_pos ⟨rfl, hlow⟩, Memory.read_write_same h v (Nat.lt_succ_of_le hlow)]
    · rw [if_neg fun hc => hlow hc.2, Memory.write_high m v (Nat.lt_of_not_le hlow)]
  · rw [if_neg fun hc => hx hc.1, Memory.read_write_other m v hx]

/-- Every byte after a cycle, with a write or without one. -/
theorem read_fbAfter {s : State} (h : Memory.wf s.fb = true) (x : FbAddr) :
    Memory.read (fbAfter s) x =
      if s.input.fbWe = true ∧ x = s.input.fbWaddr ∧ x.toNat ≤ 383 then s.input.fbWdata else Memory.read s.fb x := by
  by_cases hw : s.input.fbWe = true
  · simp only [fbAfter_of_fbWe hw, Memory.read_write h, hw, true_and]
  · rw [if_neg fun hc => hw hc.1, read_fbAfter_of_not_written fun hc => absurd hc hw]

/-- A cycle in which LOAD fires leaves in `sr` the byte that the framebuffer held at its beginning (R46, R103). -/
theorem after_sr_of_fires_load {s : State} (h : s.fires .load = true) : (after s).sr = Memory.read s.fb s.fbRaddr := by
  obtain ⟨hr, hl⟩ := fires_load_iff.mp h
  rw [after_of_not_rst hr]
  exact (clocked_shifter_of_load hl).1

/-- Settles O15: the operation alone writes by `Memory.read_write`, and every step, a reset among them, leaves `fbAfter`
(`read_fbAfter`). -/
theorem fbwriteChangesOneByte : Obligations.FbwriteChangesOneByte := by
  intro s hwf
  refine ⟨⟨effect .fbwrite s, exec_eq_effect .fbwrite s, rfl, ?wf, ?byte⟩, ?fires, after s, step_eq_after s,
    after_sr_of_fires_load, ?bytes⟩
  case wf => exact Memory.wf_write hwf _ _
  case byte => exact fun a => Memory.read_write hwf _ a _
  case fires => rw [fires_fbwrite]
  case bytes => exact fun a => by rw [after_fb, read_fbAfter hwf]

/-! ### The registers that a write does not reach -/

/-- From two inputs with the same `rst` a cycle leaves the same state up to the framebuffer: of the input no register
reads anything else. -/
theorem after_eq_setFb_of_rst_eq (s : State) {i j : Input} (rest : List Input) (h : i.rst = j.rst) :
    after { s with inputs := i :: rest } =
      (after { s with inputs := j :: rest }).setFb (fbAfter { s with inputs := i :: rest }) := by
  cases hj : j.rst
  · rw [after_of_not_rst (s := { s with inputs := i :: rest }) (h.trans hj),
      after_of_not_rst (s := { s with inputs := j :: rest }) hj]
    rfl
  · rw [after_of_rst (s := { s with inputs := i :: rest }) (h.trans hj),
      after_of_rst (s := { s with inputs := j :: rest }) hj]
    rfl

/-- Settles O59: the two steps differ in the framebuffer alone (`after_eq_setFb_of_rst_eq`). -/
theorem writeReachesNoRegister : Obligations.WriteReachesNoRegister := by
  intro s t t' i j rest hrst hstep hstep'
  obtain rfl : after { s with inputs := i :: rest } = t := by simpa [step_eq_after] using hstep
  obtain rfl : after { s with inputs := j :: rest } = t' := by simpa [step_eq_after] using hstep'
  rw [after_eq_setFb_of_rst_eq s rest hrst]
  exact ⟨⟨rfl, rfl⟩, ⟨rfl, rfl, rfl, rfl, rfl⟩, rfl⟩

end Sys2Proof.Machine
end

section
/-! PROOFS. Exceptions and simultaneous events: every operation and every step answers a next state (R150), and what happens
together in one cycle (R155). -/

namespace Sys2Proof.Machine

/-- Settles O10: an operation answers its effect, and a step the state after the cycle. -/
theorem everyOperationAndStepIsTotal : Obligations.EveryOperationAndStepIsTotal :=
  ⟨fun i s => ⟨effect i s, exec_eq_effect i s⟩, fun s => ⟨after s, step_eq_after s⟩⟩

/-- By the line budget (K3) the trigger comes before the last cycle of the line. -/
theorem pictureDelay_lt_of_legal {p : Params} (h : p.Legal) : p.pictureDelay < p.lineLast := by
  have hbudget := h.budget
  rw [Params.lineWidth] at hbudget
  omega

section Events

variable {s : State}

/-- Every row of R63 but those of RESET and FBWRITE asks for `rst` 0, and an operation of format L for TICK (R64). -/
theorem eq_reset_or_fbwrite_of_fires {i : Instr} (hr : s.input.rst = true) (h : s.fires i = true) :
    i = .reset ∨ i = .fbwrite := by
  cases hi : (encodingRow i).format
  case C =>
    cases i
    case reset => exact .inl rfl
    case fbwrite => exact .inr rfl
    case hcount | tick | start | trigdrop | load | wait | shift | bithold =>
      simp [fires_hcount, fires_tick, fires_start, fires_trigdrop, fires_load, fires_wait, fires_shift, fires_bithold,
        hr] at h
    all_goals cases hi
  case L => simp [fires_line_iff s hi, fires_tick, hr] at h

/-- A cycle with a tick ends the line, whatever else fires in it (R122). -/
theorem clocked_timing_of_tick (hr : s.input.rst = false) (ht : s.tick = true) :
    s.fires .tick = true ∧ (clocked s).hcnt = 0 ∧ (clocked s).tsm = tsmTick s.tsm :=
  ⟨fires_tick_iff.mpr ⟨hr, tick_iff.mp ht⟩, clocked_hcnt_of_tick ht, by rw [clocked_tsm, if_pos ht]⟩

end Events

/-- Settles O11, row by row of the table: in a reset cycle only RESET and FBWRITE fire (`eq_reset_or_fbwrite_of_fires`), and in
every other cycle the timer (`clocked_timing_of_tick`), the sequencer and the shifter each write registers of their own. -/
theorem simultaneousEvents : Obligations.SimultaneousEvents := by
  intro s
  refine ⟨after s, step_eq_after s, fun hr => ⟨fun i => eq_reset_or_fbwrite_of_fires hr, fun hw => ?resetWrite⟩,
    fun hr ht hg hb => ?tickTrig, fun ht hg => ?illegal, fun hr ht hload => ?tickLoad, fun hr ht hshift hload => ?tickShift,
    fun hload _ => ?loadShift, fun hr hg hb => ?trigBusy, fun hload _ _ => after_sr_of_fires_load hload⟩
  case resetWrite => exact ⟨(fires_fbwrite s).trans hw, (after_fb s).trans (fbAfter_of_fbWe hw)⟩
  case tickTrig =>
    obtain ⟨htick, hhcnt, htsm⟩ := clocked_timing_of_tick hr ht
    obtain ⟨harm, hdelay⟩ := trig_iff.mp hg
    rw [after_of_not_rst hr]
    exact ⟨htick, fires_start_iff.mpr ⟨hr, harm, hdelay, hb⟩, hhcnt, htsm, clocked_of_start hg hb⟩
  case illegal =>
    have hlast : s.params.pictureDelay = s.params.lineLast := (trig_iff.mp hg).2.symm.trans (tick_iff.mp ht)
    exact ⟨hlast, fun hlegal => (pictureDelay_lt_of_legal hlegal).ne hlast⟩
  case tickLoad =>
    obtain ⟨htick, hhcnt, htsm⟩ := clocked_timing_of_tick hr ht
    have hsr := after_sr_of_fires_load hload
    rw [after_of_not_rst hr] at hsr ⊢
    exact ⟨htick, hhcnt, htsm, hsr⟩
  case tickShift =>
    obtain ⟨htick, hhcnt, htsm⟩ := clocked_timing_of_tick hr ht
    obtain ⟨-, hc, he⟩ := fires_shift_iff.mp hshift
    rw [after_of_not_rst hr]
    exact ⟨htick, hhcnt, htsm, clocked_sr_of_shift hc he (not_loads_of_fires_load_eq_false hr hload)⟩
  case loadShift =>
    obtain ⟨hr, hl⟩ := fires_load_iff.mp hload
    rw [after_of_not_rst hr]
    exact clocked_shifter_of_load hl
  case trigBusy =>
    obtain ⟨harm, hdelay⟩ := trig_iff.mp hg
    have hdrop : s.fires .trigdrop = true := fires_trigdrop_iff.mpr ⟨hr, harm, hdelay, hb⟩
    obtain ⟨-, -, hlost⟩ := trigdropLosesTheTrigger s
    rw [after_of_not_rst hr]
    exact ⟨hdrop, (hlost hdrop).1, clocked_row_of_busy hb⟩

end Sys2Proof.Machine
end

section
/-! PROOFS. RESET (R170): the operation alone, what fires beside it, and the state and the outputs after a reset cycle. -/

namespace Sys2Proof.Machine

/-- Settles O13: a reset cycle leaves `State.afterReset` with the byte written in the cycle (`after_of_rst`), whose registers
and outputs are those of R171 (`resetValuesComplete`), and nothing but FBWRITE fires beside RESET
(`eq_reset_or_fbwrite_of_fires`). -/
theorem resetGivesEveryRegisterItsValue : Obligations.ResetGivesEveryRegisterItsValue := by
  intro s
  refine ⟨exec_eq_effect .reset s, by rw [fires_reset], fun hr =>
    ⟨fun i => eq_reset_or_fbwrite_of_fires hr, after s, step_eq_after s, ?_⟩⟩
  obtain ⟨_, rfl, hline, hhcnt, htrig, hwide, hlpm, hrow, hbidx, hsr, hbcnt, hbdiv, hfb, -, hsync, hvideo, hphase,
    haddr, -⟩ := resetValuesComplete.2 s.params (fbAfter s) s.inputs.tail
  rw [after_of_rst hr]
  exact ⟨hhcnt, hline, htrig, hwide, hlpm, hrow, hbidx, hsr, hbcnt, hbdiv, hvideo, hsync, hphase, haddr, hfb⟩

end Sys2Proof.Machine
end
